-- ==== Sys2Proof/Word.lean ====
section
/-! DEFINITION. The words of the C6461 core and the fixed sizes of spec rule R5. -/

namespace Sys2Proof

/-- A memory word, general register or index register: 16 bits (R5, R11, R12). -/
abbrev Word := BitVec 16

/-- A word address that exists, 0..2047: 11 bits (R13, R17, R19). -/
abbrev Addr := BitVec 11

/-- A 2-bit register field `r`, `rx` or `ry`; every value names a general register (R11). -/
abbrev Reg := BitVec 2

/-- A 2-bit index field `ix`: 1, 2, 3 name an index register, 0 names none (R12). -/
abbrev IxSel := BitVec 2

/-- A 5-bit field: an address literal, an immediate or a device number (R57, R60). -/
abbrev Lit5 := BitVec 5

/-- A 4-bit value: CC, MFR, a shift count or a trap code (R10, R59, R65). -/
abbrev Nibble := BitVec 4

/-- The highest word address (R19: 2048 words, addresses 0..2047). -/
abbrev maxAddr : Nat := 2047

end Sys2Proof
end

