-- ==== Sys2Proof/Syntax.lean ====
section
/-! DEFINITION. The instruction set as syntax: the 38 mnemonics of rule R52, the nine layouts of
rules R54 to R66, and one constructor of `Instr` per row of the opcode table. Every field has
exactly its width in the word (R68), so a field out of its width cannot be written. -/

namespace Sys2Proof

/-- The 38 mnemonics, in the order of the source's eight families (R52). -/
inductive Mnemonic where
  | hlt | trap | setcce
  | ldr | str | lda | ldx | stx
  | jz | jne | jcc | jma | jsr | rfs | sob | jge
  | amr | smr | air | sir | mlt | dvd
  | trr | and | orr | not
  | src | rrc
  | inp | out | chk
  | fadd | fsub | vadd | vsub | cnvrt | ldfr | stfr
  deriving DecidableEq, Repr

/-- The nine layouts: seven of the source's table and two the spec adds (R54, R63, R65). -/
inductive Layout where
  | standard | indexOnly | shiftRotate | immediateOrPort | registerRegister
  | noOperand | registerOnly | ret | trapCode
  deriving DecidableEq, Repr

/-- One instruction: its mnemonic and the fields its layout gives it (R55, R67).
The JCC field `r` is the condition-code selector `cc` (R56, R138). -/
inductive Instr where
  -- control (41_control.md)
  | hlt
  | trap (code : Nibble)
  | setcce
  -- load and store (42_load_store.md)
  | ldr (r : Reg) (ix : IxSel) (i : Bool) (addr : Lit5)
  | str (r : Reg) (ix : IxSel) (i : Bool) (addr : Lit5)
  | lda (r : Reg) (ix : IxSel) (i : Bool) (addr : Lit5)
  | ldx (ix : IxSel) (i : Bool) (addr : Lit5)
  | stx (ix : IxSel) (i : Bool) (addr : Lit5)
  -- transfer (43_transfer.md)
  | jz (r : Reg) (ix : IxSel) (i : Bool) (addr : Lit5)
  | jne (r : Reg) (ix : IxSel) (i : Bool) (addr : Lit5)
  | jcc (r : Reg) (ix : IxSel) (i : Bool) (addr : Lit5)
  | jma (ix : IxSel) (i : Bool) (addr : Lit5)
  | jsr (ix : IxSel) (i : Bool) (addr : Lit5)
  | rfs (addr : Lit5)
  | sob (r : Reg) (ix : IxSel) (i : Bool) (addr : Lit5)
  | jge (r : Reg) (ix : IxSel) (i : Bool) (addr : Lit5)
  -- arithmetic (44_arithmetic.md)
  | amr (r : Reg) (ix : IxSel) (i : Bool) (addr : Lit5)
  | smr (r : Reg) (ix : IxSel) (i : Bool) (addr : Lit5)
  | air (r : Reg) (value : Lit5)
  | sir (r : Reg) (value : Lit5)
  | mlt (rx ry : Reg)
  | dvd (rx ry : Reg)
  -- logical (45_logical.md)
  | trr (rx ry : Reg)
  | and (rx ry : Reg)
  | orr (rx ry : Reg)
  | not (r : Reg)
  -- shift and rotate (46_shift_rotate.md)
  | src (r : Reg) (lr al : Bool) (count : Nibble)
  | rrc (r : Reg) (lr al : Bool) (count : Nibble)
  -- input/output (47_io.md)
  | inp (r : Reg) (value : Lit5)
  | out (r : Reg) (value : Lit5)
  | chk (r : Reg) (value : Lit5)
  -- floating-point and vector placeholders (48_float_vector_stubs.md)
  | fadd (r : Reg) (ix : IxSel) (i : Bool) (addr : Lit5)
  | fsub (r : Reg) (ix : IxSel) (i : Bool) (addr : Lit5)
  | vadd (r : Reg) (ix : IxSel) (i : Bool) (addr : Lit5)
  | vsub (r : Reg) (ix : IxSel) (i : Bool) (addr : Lit5)
  | cnvrt (r : Reg) (ix : IxSel) (i : Bool) (addr : Lit5)
  | ldfr (r : Reg) (ix : IxSel) (i : Bool) (addr : Lit5)
  | stfr (r : Reg) (ix : IxSel) (i : Bool) (addr : Lit5)
  deriving DecidableEq, Repr

/-- The mnemonic of an instruction. -/
def Instr.mnemonic : Instr → Mnemonic
  | .hlt => .hlt
  | .trap _ => .trap
  | .setcce => .setcce
  | .ldr _ _ _ _ => .ldr
  | .str _ _ _ _ => .str
  | .lda _ _ _ _ => .lda
  | .ldx _ _ _ => .ldx
  | .stx _ _ _ => .stx
  | .jz _ _ _ _ => .jz
  | .jne _ _ _ _ => .jne
  | .jcc _ _ _ _ => .jcc
  | .jma _ _ _ => .jma
  | .jsr _ _ _ => .jsr
  | .rfs _ => .rfs
  | .sob _ _ _ _ => .sob
  | .jge _ _ _ _ => .jge
  | .amr _ _ _ _ => .amr
  | .smr _ _ _ _ => .smr
  | .air _ _ => .air
  | .sir _ _ => .sir
  | .mlt _ _ => .mlt
  | .dvd _ _ => .dvd
  | .trr _ _ => .trr
  | .and _ _ => .and
  | .orr _ _ => .orr
  | .not _ => .not
  | .src _ _ _ _ => .src
  | .rrc _ _ _ _ => .rrc
  | .inp _ _ => .inp
  | .out _ _ => .out
  | .chk _ _ => .chk
  | .fadd _ _ _ _ => .fadd
  | .fsub _ _ _ _ => .fsub
  | .vadd _ _ _ _ => .vadd
  | .vsub _ _ _ _ => .vsub
  | .cnvrt _ _ _ _ => .cnvrt
  | .ldfr _ _ _ _ => .ldfr
  | .stfr _ _ _ _ => .stfr

end Sys2Proof
end

