-- ==== Sys2Proof/WellFormed.lean ====
section
/-! DEFINITION. Well-formed instructions: the ones the encoder accepts (rules R82, R84).
All other limits of R82 are the widths of the fields themselves. -/

namespace Sys2Proof

/-- The encoder's field check beyond the widths: LDX and STX name an index register, so their
`ix` is 1, 2 or 3 (R58, R84). MLT and DVD with an odd register are well-formed: R82 says the
encoder does not test their parity. -/
def Instr.wellFormed : Instr → Bool
  | .ldx ix _ _ | .stx ix _ _ => ix != 0
  | .hlt | .trap _ | .setcce
  | .ldr .. | .str .. | .lda ..
  | .jz .. | .jne .. | .jcc .. | .jma .. | .jsr .. | .rfs _ | .sob .. | .jge ..
  | .amr .. | .smr .. | .air .. | .sir .. | .mlt .. | .dvd ..
  | .trr .. | .and .. | .orr .. | .not _
  | .src .. | .rrc ..
  | .inp .. | .out .. | .chk ..
  | .fadd .. | .fsub .. | .vadd .. | .vsub .. | .cnvrt .. | .ldfr .. | .stfr .. => true

end Sys2Proof
end

