-- ==== Sys2Proof/Decode.lean ====
section
/-! DEFINITION. The opcode table, the decoder and the encoder of the C6461 core
(30_encoding.md). The opcode assignment is a parameter `opc` (R53); `standardOpc` is its default. -/

namespace Sys2Proof

/-! ### The opcode table (R51, R52, R53, R67) -/

/-- Every mnemonic of the table, once, in the order of R52. -/
def Mnemonic.all : List Mnemonic :=
  [.hlt, .trap, .setcce] ++
  [.ldr, .str, .lda, .ldx, .stx] ++
  [.jz, .jne, .jcc, .jma, .jsr, .rfs, .sob, .jge] ++
  [.amr, .smr, .air, .sir, .mlt, .dvd] ++
  [.trr, .and, .orr, .not] ++
  [.src, .rrc] ++
  [.inp, .out, .chk] ++
  [.fadd, .fsub, .vadd, .vsub, .cnvrt, .ldfr, .stfr]

/-- The upper-case spelling of a mnemonic (R52, R80). -/
def Mnemonic.name : Mnemonic → String
  | .hlt => "HLT"
  | .trap => "TRAP"
  | .setcce => "SETCCE"
  | .ldr => "LDR"
  | .str => "STR"
  | .lda => "LDA"
  | .ldx => "LDX"
  | .stx => "STX"
  | .jz => "JZ"
  | .jne => "JNE"
  | .jcc => "JCC"
  | .jma => "JMA"
  | .jsr => "JSR"
  | .rfs => "RFS"
  | .sob => "SOB"
  | .jge => "JGE"
  | .amr => "AMR"
  | .smr => "SMR"
  | .air => "AIR"
  | .sir => "SIR"
  | .mlt => "MLT"
  | .dvd => "DVD"
  | .trr => "TRR"
  | .and => "AND"
  | .orr => "ORR"
  | .not => "NOT"
  | .src => "SRC"
  | .rrc => "RRC"
  | .inp => "IN"
  | .out => "OUT"
  | .chk => "CHK"
  | .fadd => "FADD"
  | .fsub => "FSUB"
  | .vadd => "VADD"
  | .vsub => "VSUB"
  | .cnvrt => "CNVRT"
  | .ldfr => "LDFR"
  | .stfr => "STFR"

/-- The layout of each mnemonic (R67). -/
def Mnemonic.layout : Mnemonic → Layout
  | .ldr | .str | .lda | .jz | .jne | .jcc | .sob | .jge | .amr | .smr | .fadd | .fsub | .vadd | .vsub | .cnvrt | .ldfr | .stfr
    => .standard
  | .ldx | .stx | .jma | .jsr
    => .indexOnly
  | .src | .rrc
    => .shiftRotate
  | .air | .sir | .inp | .out | .chk
    => .immediateOrPort
  | .mlt | .dvd | .trr | .and | .orr
    => .registerRegister
  | .hlt | .setcce
    => .noOperand
  | .not
    => .registerOnly
  | .rfs
    => .ret
  | .trap
    => .trapCode

/-- The default opcode values, parameter `OPC` (R53). Only HLT = 0 and LDA = 3 are the source's. -/
def standardOpc : Mnemonic → BitVec 6
  | .hlt => 0
  | .trap => 24
  | .setcce => 36
  | .ldr => 1
  | .str => 2
  | .lda => 3
  | .ldx => 33
  | .stx => 34
  | .jz => 8
  | .jne => 9
  | .jcc => 10
  | .jma => 11
  | .jsr => 12
  | .rfs => 13
  | .sob => 14
  | .jge => 15
  | .amr => 4
  | .smr => 5
  | .air => 6
  | .sir => 7
  | .mlt => 16
  | .dvd => 17
  | .trr => 18
  | .and => 19
  | .orr => 20
  | .not => 21
  | .src => 25
  | .rrc => 26
  | .inp => 49
  | .out => 50
  | .chk => 51
  | .fadd => 27
  | .fsub => 28
  | .vadd => 29
  | .vsub => 30
  | .cnvrt => 31
  | .ldfr => 40
  | .stfr => 41

/-- The reserved bits of a layout, as a mask over the word (R55). -/
def Layout.reservedMask : Layout → Word
  | .standard => 0x0000
  | .indexOnly => 0x0300
  | .shiftRotate => 0x0030
  | .immediateOrPort => 0x00E0
  | .registerRegister => 0x003F
  | .noOperand => 0x03FF
  | .registerOnly => 0x00FF
  | .ret => 0x03E0
  | .trapCode => 0x03F0

/-! ### The fields of a word (R55): plain unsigned bits, nothing extended or scaled (R68) -/

/-- `w[15:10]`, the opcode field. -/
def opField (w : Word) : BitVec 6 := w.extractLsb' 10 6
/-- `w[9:8]`: `r`, `rx` or `cc`. -/
def rField (w : Word) : Reg := w.extractLsb' 8 2
/-- `w[7:6]`: `ix` or `ry`. -/
def ixField (w : Word) : IxSel := w.extractLsb' 6 2
/-- `w[5]`: the indirect bit `i`. -/
def iField (w : Word) : Bool := w.getLsbD 5
/-- `w[4:0]`: `addr` or `value`. -/
def addrField (w : Word) : Lit5 := w.extractLsb' 0 5
/-- `w[7]`: the source's L/R bit (R59). -/
def lrField (w : Word) : Bool := w.getLsbD 7
/-- `w[6]`: the source's A/L bit (R59). -/
def alField (w : Word) : Bool := w.getLsbD 6
/-- `w[3:0]`: `count` or `code`. -/
def countField (w : Word) : Nibble := w.extractLsb' 0 4

/-! ### The decoder -/

/-- The instruction of mnemonic `m` whose fields are the bits of `w`; reserved bits are not read. -/
def Instr.ofWord (m : Mnemonic) (w : Word) : Instr :=
  match m with
  | .hlt => .hlt
  | .trap => .trap (countField w)
  | .setcce => .setcce
  | .ldr => .ldr (rField w) (ixField w) (iField w) (addrField w)
  | .str => .str (rField w) (ixField w) (iField w) (addrField w)
  | .lda => .lda (rField w) (ixField w) (iField w) (addrField w)
  | .ldx => .ldx (ixField w) (iField w) (addrField w)
  | .stx => .stx (ixField w) (iField w) (addrField w)
  | .jz => .jz (rField w) (ixField w) (iField w) (addrField w)
  | .jne => .jne (rField w) (ixField w) (iField w) (addrField w)
  | .jcc => .jcc (rField w) (ixField w) (iField w) (addrField w)
  | .jma => .jma (ixField w) (iField w) (addrField w)
  | .jsr => .jsr (ixField w) (iField w) (addrField w)
  | .rfs => .rfs (addrField w)
  | .sob => .sob (rField w) (ixField w) (iField w) (addrField w)
  | .jge => .jge (rField w) (ixField w) (iField w) (addrField w)
  | .amr => .amr (rField w) (ixField w) (iField w) (addrField w)
  | .smr => .smr (rField w) (ixField w) (iField w) (addrField w)
  | .air => .air (rField w) (addrField w)
  | .sir => .sir (rField w) (addrField w)
  | .mlt => .mlt (rField w) (ixField w)
  | .dvd => .dvd (rField w) (ixField w)
  | .trr => .trr (rField w) (ixField w)
  | .and => .and (rField w) (ixField w)
  | .orr => .orr (rField w) (ixField w)
  | .not => .not (rField w)
  | .src => .src (rField w) (lrField w) (alField w) (countField w)
  | .rrc => .rrc (rField w) (lrField w) (alField w) (countField w)
  | .inp => .inp (rField w) (addrField w)
  | .out => .out (rField w) (addrField w)
  | .chk => .chk (rField w) (addrField w)
  | .fadd => .fadd (rField w) (ixField w) (iField w) (addrField w)
  | .fsub => .fsub (rField w) (ixField w) (iField w) (addrField w)
  | .vadd => .vadd (rField w) (ixField w) (iField w) (addrField w)
  | .vsub => .vsub (rField w) (ixField w) (iField w) (addrField w)
  | .cnvrt => .cnvrt (rField w) (ixField w) (iField w) (addrField w)
  | .ldfr => .ldfr (rField w) (ixField w) (iField w) (addrField w)
  | .stfr => .stfr (rField w) (ixField w) (iField w) (addrField w)

/-- The one reading the decoder gives a word (R69). -/
inductive Decoded where
  /-- No mnemonic has this opcode value; the word is rejected with the value named (R70). -/
  | unknown (op : BitVec 6)
  /-- The instruction with its fields, and whether every reserved bit of its layout is 0. -/
  | known (i : Instr) (canonical : Bool)
  deriving DecidableEq, Repr

/-- The mnemonic that an opcode value stands for, if any (R51, R69). -/
def lookupOpcode (opc : Mnemonic → BitVec 6) (op : BitVec 6) : Option Mnemonic :=
  Mnemonic.all.find? fun m => opc m == op

/-- Whether the reserved bits of layout `l` are all 0 in `w` (R69, R79). -/
def Layout.canonical (l : Layout) (w : Word) : Bool := w &&& l.reservedMask == 0

/-- `Decode(w)`: total on every 16-bit word, for any opcode assignment (R69). -/
def decode (opc : Mnemonic → BitVec 6) (w : Word) : Decoded :=
  match lookupOpcode opc (opField w) with
  | none => .unknown (opField w)
  | some m => .known (Instr.ofWord m w) (m.layout.canonical w)

/-- The instruction read from an instruction whose bits are `w` (`nbits` of them), under the
default opcodes. An instruction is one 16-bit word (R50), so bits above bit 15 are not its own. -/
def decodeTableWord (nbits w : Nat) : Option Instr :=
  match decode standardOpc (BitVec.ofNat 16 (w % 2 ^ nbits)) with
  | .unknown _ => none
  | .known i _ => some i

/-! ### The encoder -/

/-- The ten bits after the opcode in each layout, most significant field first, reserved bits 0
(R54, R56 to R65). -/
def packStandard (r : Reg) (ix : IxSel) (i : Bool) (addr : Lit5) : BitVec 10 :=
  r ++ ix ++ BitVec.ofBool i ++ addr
/-- IndexOnly: `00 ++ ix ++ i ++ addr` (R58). -/
def packIndexOnly (ix : IxSel) (i : Bool) (addr : Lit5) : BitVec 10 :=
  0#2 ++ ix ++ BitVec.ofBool i ++ addr
/-- ShiftRotate: `r ++ lr ++ al ++ 00 ++ count` (R59). -/
def packShiftRotate (r : Reg) (lr al : Bool) (count : Nibble) : BitVec 10 :=
  r ++ BitVec.ofBool lr ++ BitVec.ofBool al ++ 0#2 ++ count
/-- ImmediateOrPort: `r ++ 000 ++ value` (R60). -/
def packImmediateOrPort (r : Reg) (value : Lit5) : BitVec 10 := r ++ 0#3 ++ value
/-- RegisterRegister: `rx ++ ry ++ 000000` (R61). -/
def packRegisterRegister (rx ry : Reg) : BitVec 10 := rx ++ ry ++ 0#6
/-- RegisterOnly: `r ++ 00000000` (R63). -/
def packRegisterOnly (r : Reg) : BitVec 10 := r ++ 0#8
/-- Return: `00000 ++ addr` (R64). -/
def packReturn (addr : Lit5) : BitVec 10 := 0#5 ++ addr
/-- TrapCode: `000000 ++ code` (R65). -/
def packTrapCode (code : Nibble) : BitVec 10 := 0#6 ++ code

/-- The ten bits below the opcode of an instruction. -/
def Instr.payload : Instr → BitVec 10
  | .hlt => 0#10
  | .trap code => packTrapCode code
  | .setcce => 0#10
  | .ldr r ix i addr => packStandard r ix i addr
  | .str r ix i addr => packStandard r ix i addr
  | .lda r ix i addr => packStandard r ix i addr
  | .ldx ix i addr => packIndexOnly ix i addr
  | .stx ix i addr => packIndexOnly ix i addr
  | .jz r ix i addr => packStandard r ix i addr
  | .jne r ix i addr => packStandard r ix i addr
  | .jcc r ix i addr => packStandard r ix i addr
  | .jma ix i addr => packIndexOnly ix i addr
  | .jsr ix i addr => packIndexOnly ix i addr
  | .rfs addr => packReturn addr
  | .sob r ix i addr => packStandard r ix i addr
  | .jge r ix i addr => packStandard r ix i addr
  | .amr r ix i addr => packStandard r ix i addr
  | .smr r ix i addr => packStandard r ix i addr
  | .air r value => packImmediateOrPort r value
  | .sir r value => packImmediateOrPort r value
  | .mlt rx ry => packRegisterRegister rx ry
  | .dvd rx ry => packRegisterRegister rx ry
  | .trr rx ry => packRegisterRegister rx ry
  | .and rx ry => packRegisterRegister rx ry
  | .orr rx ry => packRegisterRegister rx ry
  | .not r => packRegisterOnly r
  | .src r lr al count => packShiftRotate r lr al count
  | .rrc r lr al count => packShiftRotate r lr al count
  | .inp r value => packImmediateOrPort r value
  | .out r value => packImmediateOrPort r value
  | .chk r value => packImmediateOrPort r value
  | .fadd r ix i addr => packStandard r ix i addr
  | .fsub r ix i addr => packStandard r ix i addr
  | .vadd r ix i addr => packStandard r ix i addr
  | .vsub r ix i addr => packStandard r ix i addr
  | .cnvrt r ix i addr => packStandard r ix i addr
  | .ldfr r ix i addr => packStandard r ix i addr
  | .stfr r ix i addr => packStandard r ix i addr

/-- The word of an instruction: opcode first, then the fields of its layout (R54, R86). -/
def encode (opc : Mnemonic → BitVec 6) (i : Instr) : Word :=
  opc i.mnemonic ++ i.payload

end Sys2Proof
end

