-- ==== Sys2Proof/Config.lean ====
section
/-! DEFINITION. The configuration: the parameters of rule R9 that the source leaves open, fixed for
a machine and read by every step. `Config.standard` (Machine/Defaults.lean) takes R9's defaults. -/

namespace Sys2Proof

/-- Which question the core asks a device: `PortRead` (IN) or `PortStatus` (CHK) (R185). -/
inductive PortQuery where
  | read | status
  deriving DecidableEq, Repr

/-- One completed port operation (R185): an answer the core received, or a word it handed over. -/
inductive PortEvent where
  | answered (q : PortQuery) (d : Lit5) (v : Word)
  | written (d : Lit5) (v : Word)
  deriving DecidableEq, Repr

/-- The port answers of the standard configuration: a FREE VALUE (R185 puts no constraint on an
answer). It is given the question, all port operations made so far (newest first) and the device,
so no two calls need answer alike. DESIGN CHOICE, safe (log entry 4). -/
opaque Config.freePort : PortQuery → List PortEvent → Lit5 → Word

/-- The parameters of R9. TRACE is not among them: the model records the one event the source
requires and gives it no content (log entry 6). -/
structure Config where
  /-- `OPC`: the opcode value of each mnemonic (R53). -/
  opc : Mnemonic → BitVec 6
  /-- `PC_RESET`: the program counter after reset (R24). -/
  pcReset : Addr
  /-- `MFR_UNKNOWN_OPCODE` (R235). -/
  mfrUnknownOpcode : Nibble
  /-- `MFR_DIVIDE_BY_ZERO` (R235). -/
  mfrDivideByZero : Nibble
  /-- `MFR_ADDRESS_RANGE` (R235). -/
  mfrAddressRange : Nibble
  /-- `STRICT_RESERVED`: a nonzero reserved bit faults at run time (R105). -/
  strictReserved : Bool
  /-- `SENTINEL_GUARD`: fetching the word 1024 faults (R103). -/
  sentinelGuard : Bool
  /-- `ALU_MLT`: new `GPR[rx]` and `GPR[rx+1]` from the two operand words (R158). -/
  aluMlt : Word → Word → Word × Word
  /-- `ALU_DVD`: the same for DVD; asked only with a nonzero divisor (R160). -/
  aluDvd : Word → Word → Word × Word
  /-- `ALU_TRR`: the new CC from the old one and the two operand words (R166). -/
  aluTrr : Nibble → Word → Word → Nibble
  /-- `PORT`: the answer of a device, given all port operations so far, newest first (R185). -/
  port : PortQuery → List PortEvent → Lit5 → Word

/-- The default of `PC_RESET` (R9). -/
def Config.pcResetDefault : Addr := 0

/-- What R9 requires of the open parameters: `OPC` injective with the source's two fixed values,
fault codes nonzero and pairwise distinct (R53, R235). -/
structure Config.Admissible (c : Config) : Prop where
  opc_injective : Function.Injective c.opc
  opc_hlt : c.opc .hlt = 0
  opc_lda : c.opc .lda = 3
  unknownOpcode_ne_zero : c.mfrUnknownOpcode ≠ 0
  divideByZero_ne_zero : c.mfrDivideByZero ≠ 0
  addressRange_ne_zero : c.mfrAddressRange ≠ 0
  unknownOpcode_ne_divideByZero : c.mfrUnknownOpcode ≠ c.mfrDivideByZero
  unknownOpcode_ne_addressRange : c.mfrUnknownOpcode ≠ c.mfrAddressRange
  divideByZero_ne_addressRange : c.mfrDivideByZero ≠ c.mfrAddressRange

end Sys2Proof
end

