-- ==== Sys2Proof/Machine/Operands.lean ====
section
/-! DEFINITION. The value of every operand form and every arithmetic, logical and shift result, as
pure functions of words (R7, R68, R150, R158, R160, R176, R177). Exact integers are computed first
and reduced to 16 bits at the end, as the rules write them. -/

namespace Sys2Proof.Machine

/-- `signed16(v)`: the two's complement reading (R7). -/
def signed16 (v : Word) : Int := v.toInt

/-- `wrap16(n)`: reduction modulo 65536 (R7). -/
def wrap16 (n : Int) : Word := BitVec.ofInt 16 n

/-- A 5-bit literal as a 16-bit word, `zext_16` (R68). -/
def literal (v : Lit5) : Word := v.setWidth 16

/-- Addition of AMR and AIR (R150). -/
def addWrap (x y : Word) : Word := wrap16 ((x.toNat : Int) + (y.toNat : Int))

/-- Subtraction of SMR, SIR and SOB (R150). -/
def subWrap (x y : Word) : Word := wrap16 ((x.toNat : Int) - (y.toNat : Int))

/-- The default of `ALU_MLT`: the signed product as 32 bits, high half first (R158). -/
def multiply (x y : Word) : Word × Word :=
  let p : BitVec 32 := BitVec.ofInt 32 (signed16 x * signed16 y)
  (p.extractLsb' 16 16, p.extractLsb' 0 16)

/-- The default of `ALU_DVD`: the quotient rounded toward zero and the remainder (R160). -/
def divide (x y : Word) : Word × Word :=
  let q := Int.tdiv (signed16 x) (signed16 y)
  (wrap16 q, wrap16 (signed16 x - q * signed16 y))

/-- Whether a register field is odd, which MLT and DVD refuse (R157). -/
def oddField (r : Reg) : Bool := r.getLsbD 0

/-- The complement of NOT (R169). -/
def complement (x : Word) : Word := x ^^^ 0xFFFF

/-- The result of SRC: left for either `al`; right logical or right arithmetic (R175, R176). The
division of the signed value rounds down. -/
def shiftValue (lr al : Bool) (count : Nibble) (x : Word) : Word :=
  let k := count.toNat
  if k = 0 then x
  else if lr then wrap16 ((x.toNat : Int) * 2 ^ k)
  else if al then wrap16 ((x.toNat : Int) / 2 ^ k)
  else wrap16 (signed16 x / 2 ^ k)

/-- The result of RRC; the A/L bit plays no part (R175, R177). -/
def rotateValue (lr : Bool) (count : Nibble) (x : Word) : Word :=
  let k := count.toNat
  if k = 0 then x
  else if lr then wrap16 ((x.toNat : Int) * 2 ^ k) ||| wrap16 ((x.toNat : Int) / 2 ^ (16 - k))
  else wrap16 ((x.toNat : Int) / 2 ^ k) ||| wrap16 ((x.toNat : Int) * 2 ^ (16 - k))

end Sys2Proof.Machine
end

