-- ==== Sys2Proof/Machine/Flags.lean ====
section
/-! DEFINITION. The condition code and the conditions of the branches. TRR is the only instruction
that writes a flag (R14, R155); no other instruction computes one. -/

namespace Sys2Proof.Machine

/-- The default of `ALU_TRR`: CC bit 3 set on equality and cleared otherwise, bits 2..0 kept (R166). -/
def testEqual (cc : Nibble) (x y : Word) : Nibble :=
  if x = y then cc ||| 0b1000 else cc &&& 0b0111

/-- The condition of JZ (R135). -/
def isZero (x : Word) : Bool := x == 0

/-- The condition of JNE (R136). -/
def isNonzero (x : Word) : Bool := x != 0

/-- The condition of JGE, on the two's complement reading (R137). -/
def isNonnegative (x : Word) : Bool := 0 ≤ signed16 x

/-- The condition of SOB on the decremented value (R142). -/
def isPositive (x : Word) : Bool := 0 < signed16 x

/-- The condition of JCC: the whole of CC against the 2-bit selector (R138). -/
def ccMatches (cc : Nibble) (sel : Reg) : Bool := cc == sel.setWidth 4

end Sys2Proof.Machine
end

