-- ==== Sys2Proof/Machine/Defaults.lean ====
section
/-! DEFINITION. The standard configuration: the defaults of rule R9, which `exec` and `step` run
under (log entry 3). -/

namespace Sys2Proof

/-- R9's defaults; the port answers are free. -/
def Config.standard : Config where
  opc := standardOpc
  pcReset := Config.pcResetDefault
  mfrUnknownOpcode := 4
  mfrDivideByZero := 1
  mfrAddressRange := 8
  strictReserved := false
  sentinelGuard := false
  aluMlt := Machine.multiply
  aluDvd := Machine.divide
  aluTrr := Machine.testEqual
  port := Config.freePort

end Sys2Proof
end

