-- ==== Sys2Proof/Machine/State.lean ====
section
/-! DEFINITION. The state of the C6461 core as plain data (10_state.md), the reasons of a run-time
fault and of a refusal, and the state after reset (R24, R255). -/

namespace Sys2Proof.Machine

/-- The three run-time faults (R231, R232, R233). The spec describes their entry (R236) as a change
of state, `MFR` and `RUN`, so a faulting instruction answers a NEXT state made by `raise`
(Machine/Ops.lean) and no step answers `Host.Outcome.fault`. Safe: nothing is cut off. -/
inductive Fault where
  /-- Raised by the fetch-decode cycle on an unassigned opcode, a guarded sentinel or a strict
  reserved bit, by TRAP and SETCCE, by LDX and STX with `ix = 0`, and by MLT and DVD with an odd
  register (R231). Safe: the spec's own fault entry. -/
  | unknownOpcode
  /-- Raised by DVD with a zero divisor (R232). Safe: the spec's own fault entry. -/
  | divideByZero
  /-- Raised by the address resolver, by the default increment at 2047 and by RFS (R233). `info` is
  the number that was out of range; R233 calls it descriptive and it is stored nowhere.
  Safe: the spec's own fault entry. -/
  | addressOutOfRange (info : Nat)
  deriving DecidableEq, Repr

/-- Reasons to have no meaning for an instruction. -/
inductive Refusal where
  /-- An instruction whose arm of `exec` has no meaning yet; no arm of this model answers it. Safe. -/
  | notModelled (mnemonic : String)
  deriving DecidableEq, Repr

/-- The executor's run state (R20). -/
inductive RunState where
  | ready | halted | faulted
  deriving DecidableEq, Repr

/-- A trace record. Only the halt record is required and its content is open (R101, R113). -/
inductive TraceRecord where
  | halt
  deriving DecidableEq, Repr

/-- Memory as the words that differ from what an unlisted address reads as, by word address, in
strictly rising order (`Memory.wf`, Machine/Ops.lean). The cells are whole 16-bit words and never
bytes, as R31 demands (log entry 1). -/
abbrev Memory := List (Nat × Word)

/-- The whole state (R10, R22), and two output histories of the model's own. -/
structure State where
  /-- `GPR[0..3]` (R11). -/
  gpr : Vector Word 4
  /-- `IXR[1..3]`; register `x` stands in slot `x - 1` (R12). -/
  ixr : Vector Word 3
  /-- The program counter (R13). -/
  pc : Addr
  /-- The memory address register (R17). -/
  mar : Addr
  /-- The memory buffer register (R18). -/
  mbr : Word
  /-- The instruction register (R16). -/
  ir : Word
  /-- The condition code (R14). -/
  cc : Nibble
  /-- The machine-fault register (R15). -/
  mfr : Nibble
  /-- The run state (R20). -/
  run : RunState
  /-- `MEM[0..2047]` (R19). -/
  mem : Memory
  /-- `STOP_REQ`, the stop-request latch (R21). -/
  stopReq : Bool
  /-- `LC`, the location counter of the encoder front end; no step touches it (R22, R90). It is at
  most 2048: 2048 stands after a word was emitted at 2047 (R94). -/
  lc : Nat
  /-- The MODEL's own: every port operation so far, newest first. Its `written` entries are the
  output history of R185; the free port answers are drawn from it (log entries 4 and 5). -/
  portLog : List PortEvent
  /-- The MODEL's own: the trace output stream so far, newest first (R113, log entry 6). -/
  trace : List TraceRecord
  deriving DecidableEq, Repr

/-- The state after reset with a given `PC_RESET`: every register 0, memory with nothing listed
(R24, R255). -/
def State.resetAt (pcReset : Addr) : State where
  gpr := #v[0, 0, 0, 0]
  ixr := #v[0, 0, 0]
  pc := pcReset
  mar := 0
  mbr := 0
  ir := 0
  cc := 0
  mfr := 0
  run := .ready
  mem := []
  stopReq := false
  lc := 0
  portLog := []
  trace := []

/-- The machine right after reset, with the default `PC_RESET` (R24, R255). -/
def State.reset : State := State.resetAt Config.pcResetDefault

end Sys2Proof.Machine
end

