-- ==== Sys2Proof/Machine/Ops.lean ====
section
/-! DEFINITION. The named operations over memory and registers, the effective-address resolver, the
entry of a fault (R236), the halt, and the check-then-commit shapes every instruction rule is made
of (R107, R109, R110). -/

namespace Sys2Proof.Machine

/-! ### Memory (R19, R30, R33, R34) -/

/-- What an address with nothing listed reads as: memory is zero-initialized (R19, R24). -/
def Memory.unlisted (_ : Nat) : Word := 0

/-- The word at a word address. -/
def Memory.read : Memory → Nat → Word
  | [], a => Memory.unlisted a
  | (b, v) :: rest, a => if a = b then v else Memory.read rest a

/-- `MEM[a] <- v`, keeping the canonical form (R34). -/
def Memory.write : Memory → Nat → Word → Memory
  | [], a, v => if v = Memory.unlisted a then [] else [(a, v)]
  | (b, u) :: rest, a, v =>
    if a < b then
      if v = Memory.unlisted a then (b, u) :: rest else (a, v) :: (b, u) :: rest
    else if a = b then
      if v = Memory.unlisted a then rest else (a, v) :: rest
    else (b, u) :: Memory.write rest a v

/-- The canonical form from address `lo` on: rising addresses up to 2047, no entry that an unlisted
address would read as. -/
def Memory.wfFrom : Nat → Memory → Bool
  | _, [] => true
  | lo, (a, v) :: rest =>
    decide (lo ≤ a) && decide (a ≤ maxAddr) && v != Memory.unlisted a && Memory.wfFrom (a + 1) rest

/-- The canonical form of memory. -/
def Memory.wf (m : Memory) : Bool := Memory.wfFrom 0 m

/-- The range check of every integer used as an address or as the next PC: above 2047 it is
`AddressOutOfRange` with that integer (R33, R34, R36, R107, R141). -/
def checkAddr (n : Nat) : Except Fault Addr :=
  if n ≤ maxAddr then .ok (BitVec.ofNat 11 n) else .error (.addressOutOfRange n)

/-- `MEM[a]` for an address that exists. -/
def State.readMem (s : State) (a : Addr) : Word := s.mem.read a.toNat

/-- `MEM[a] <- v` for an address that exists; no other word changes (R34). -/
def State.writeMem (s : State) (a : Addr) (v : Word) : State :=
  { s with mem := s.mem.write a.toNat v }

/-- `MemRead(a, 1)` (R33). -/
def memRead (n : Nat) (s : State) : Except Fault Word :=
  match checkAddr n with
  | .error f => .error f
  | .ok a => .ok (s.readMem a)

/-- `MemWrite(a, 1, v)` (R34). -/
def memWrite (n : Nat) (v : Word) (s : State) : Except Fault State :=
  match checkAddr n with
  | .error f => .error f
  | .ok a => .ok (s.writeMem a v)

/-! ### Registers (R11, R12) -/

/-- `GPR[r]`. -/
def State.readGpr (s : State) (r : Reg) : Word := s.gpr[r.toNat]

/-- `GPR[r] <- v`. -/
def State.writeGpr (s : State) (r : Reg) (v : Word) : State :=
  { s with gpr := s.gpr.set r.toNat v }

/-- `if ix = 0 then 0 else IXR[ix]`, what an index field adds to an address (R36): the selector 0
names no register. The one place, with `writeIxr`, that maps a selector to a storage slot (R12). -/
def State.readIxr (s : State) (x : IxSel) : Word :=
  if h : x = 0 then 0 else s.ixr[x.toNat - 1]'(by have := x.isLt; omega)

/-- `IXR[x] <- v` for `x` in 1..3; there is no `IXR[0]` to write. -/
def State.writeIxr (s : State) (x : IxSel) (v : Word) : State :=
  { s with
    ixr := if h : x = 0 then s.ixr else s.ixr.set (x.toNat - 1) v (by have := x.isLt; omega) }

/-- `PC <- a`. -/
def State.setPc (s : State) (a : Addr) : State := { s with pc := a }

/-- `CC <- v`. -/
def State.setCc (s : State) (v : Nibble) : State := { s with cc := v }

/-- The bookkeeping of one memory access: `MAR <- a; MBR <- v` (R110). -/
def State.latchAccess (s : State) (a : Addr) (v : Word) : State := { s with mar := a, mbr := v }

/-- The fetch latches of a nonzero word: `MAR <- PC; MBR <- w; IR <- w` (R102). -/
def State.latchFetch (s : State) (w : Word) : State := { s with mar := s.pc, mbr := w, ir := w }

/-- One port operation joins the history (R185). -/
def State.logPort (s : State) (e : PortEvent) : State := { s with portLog := e :: s.portLog }

/-! ### Halt and fault (R120, R235, R236, R239) -/

/-- `RUN <- Halted` and the halt trace record (R113, R239). -/
def State.halt (s : State) : State := { s with run := .halted, trace := .halt :: s.trace }

/-- The MFR code of a fault (R235). -/
def faultCode (c : Config) : Fault → Nibble
  | .unknownOpcode => c.mfrUnknownOpcode
  | .divideByZero => c.mfrDivideByZero
  | .addressOutOfRange _ => c.mfrAddressRange

/-- TAKING A FAULT, the machine's one exception entry: `MFR <- code(F); RUN <- Faulted`, nothing
else written, the PC left on the faulting word (R236). There is no return from it: the state is
terminal and only `reset` leaves it (R238). -/
def raise (c : Config) (f : Fault) (s : State) : State :=
  { s with mfr := faultCode c f, run := .faulted }

/-! ### The effective address (R36) -/

/-- A resolved address: the address, and the pointer read (where, and the word) if `i = 1`. -/
structure Resolved where
  ea : Addr
  pointer : Option (Addr × Word)
  deriving DecidableEq, Repr

/-- `EA(ix, i, addr)`: the exact sum, range-checked; with `i = 1` the word there, range-checked;
one level of indirection only (R36). It writes nothing; the bookkeeping of its pointer read is
`State.latchPointer`, a commit-phase act (R110). -/
def resolve (ix : IxSel) (i : Bool) (addr : Lit5) (s : State) : Except Fault Resolved :=
  match checkAddr (addr.toNat + (s.readIxr ix).toNat) with
  | .error f => .error f
  | .ok a =>
    if i then
      match memRead a.toNat s with
      | .error f => .error f
      | .ok p =>
        match checkAddr p.toNat with
        | .error f => .error f
        | .ok ea => .ok ⟨ea, some (a, p)⟩
    else .ok ⟨a, none⟩

/-- `MAR <- s; MBR <- p` of a pointer read, if there was one (R110). -/
def State.latchPointer (s : State) (e : Resolved) : State :=
  match e.pointer with
  | none => s
  | some (a, p) => s.latchAccess a p

/-! ### The shapes of an instruction rule (R107, R108, R109) -/

/-- The outcome of every step of this machine: a next state, or a reason. -/
abbrev Outcome := Host.Outcome State Fault Refusal

/-- The address of the next instruction, `PC + 1`, checked (R107). -/
def successor (s : State) : Except Fault Addr := checkAddr (s.pc.toNat + 1)

/-- A rule that ends in `next`: check that `PC + 1` exists, then commit and advance (R107, R109). -/
def advance (c : Config) (s : State) (commit : State → State) : Outcome :=
  match successor s with
  | .error f => .next (raise c f s)
  | .ok a => .next ((commit s).setPc a)

/-- The first check of an addressed instruction: resolve the address or fault (R38, R109). -/
def withAddress (c : Config) (s : State) (ix : IxSel) (i : Bool) (addr : Lit5)
    (k : Resolved → Outcome) : Outcome :=
  match resolve ix i addr s with
  | .error f => .next (raise c f s)
  | .ok e => k e

/-- A rule that reads one data word at `EA` and ends in `next` (R125, R128, R151, R152). -/
def loadAt (c : Config) (s : State) (ix : IxSel) (i : Bool) (addr : Lit5)
    (commit : Word → State → State) : Outcome :=
  withAddress c s ix i addr fun e =>
    advance c s fun t => (commit (s.readMem e.ea) t).latchAccess e.ea (s.readMem e.ea)

/-- A rule that writes one data word at `EA` and ends in `next` (R126, R129). -/
def storeAt (c : Config) (s : State) (ix : IxSel) (i : Bool) (addr : Lit5) (v : Word) : Outcome :=
  withAddress c s ix i addr fun e =>
    advance c s fun t => (t.writeMem e.ea v).latchAccess e.ea v

/-- A rule that branches to `EA` if `taken` and otherwise ends in `next`. The address is resolved
either way (R38); the increment is suppressed when taken (R108). -/
def branchAt (c : Config) (s : State) (ix : IxSel) (i : Bool) (addr : Lit5) (taken : Bool)
    (commit : State → State) : Outcome :=
  withAddress c s ix i addr fun e =>
    if taken then .next ((commit (s.latchPointer e)).setPc e.ea)
    else advance c s fun t => commit (t.latchPointer e)

/-- The shape of MLT and DVD: both registers even or `UnknownOpcode`; then `check` may fault; then
the pair `GPR[rx]`, `GPR[rx+1]` gets `result`, computed from the old operands (R157, R266). -/
def pairOp (c : Config) (s : State) (rx ry : Reg) (check : Word → Word → Option Fault)
    (result : Word → Word → Word × Word) : Outcome :=
  if oddField rx || oddField ry then .next (raise c .unknownOpcode s)
  else
    match check (s.readGpr rx) (s.readGpr ry) with
    | some f => .next (raise c f s)
    | none =>
      advance c s fun t =>
        (t.writeGpr rx (result (s.readGpr rx) (s.readGpr ry)).1).writeGpr (rx + 1)
          (result (s.readGpr rx) (s.readGpr ry)).2

/-- A rule that asks a device and puts the answer in a register; the port is asked in the commit
phase only, so a faulting step asks nothing (R109, R186, R188). -/
def portAsk (c : Config) (s : State) (q : PortQuery) (r : Reg) (d : Lit5) : Outcome :=
  advance c s fun t =>
    (t.writeGpr r (c.port q t.portLog d)).logPort (.answered q d (c.port q t.portLog d))

end Sys2Proof.Machine
end

