-- ==== Sys2Proof/Machine/Cycle.lean ====
section
/-! DEFINITION. The fetch-decode-execute cycle (40_execution_cycle.md), for any configuration and
any dispatcher. -/

namespace Sys2Proof.Machine

/-- The word the next step fetches: `MEM[PC]` (R101). -/
def State.fetch (s : State) : Word := s.readMem s.pc

/-- Decode the fetched nonzero word `w` and perform its rule; `t` already holds the fetch latches.
In order: the sentinel test (R103), the decode (R104), the reserved-bit test (R105), dispatch
(R106). -/
def decodeAndExecute (c : Config) (ex : Instr → State → Outcome) (w : Word) (t : State) : Outcome :=
  if c.sentinelGuard && w == 0x0400 then .next (raise c .unknownOpcode t)
  else
    match decode c.opc w with
    | .unknown _ => .next (raise c .unknownOpcode t)
    | .known i canonical =>
      if c.strictReserved && !canonical then .next (raise c .unknownOpcode t) else ex i t

/-- One step (R100): nothing unless `Ready` (R112); the zero word halts and writes no latch (R101);
any other word is latched (R102), decoded and executed. -/
def cycle (c : Config) (ex : Instr → State → Outcome) (s : State) : Outcome :=
  match s.run with
  | .halted | .faulted => .next s
  | .ready =>
    if s.fetch = 0 then .next s.halt
    else decodeAndExecute c ex s.fetch (s.latchFetch s.fetch)

end Sys2Proof.Machine
end

