-- ==== Sys2Proof/Machine/Arithmetic.lean ====
section
/-! DEFINITION. The meanings of AMR, SMR, AIR, SIR, MLT, DVD (44_arithmetic.md).
`s` is the state after the fetch latches; `c` is the configuration, R9's defaults unless given. -/

namespace Sys2Proof.Machine

/-- AMR: `GPR[r] <- wrap16(GPR[r] + MEM[ea])` (R151). -/
def execAmr (r : Reg) (ix : IxSel) (i : Bool) (addr : Lit5) (s : State)
    (c : Config := Config.standard) : Outcome :=
  loadAt c s ix i addr fun v t => t.writeGpr r (addWrap (s.readGpr r) v)

/-- SMR: `GPR[r] <- wrap16(GPR[r] - MEM[ea])` (R152). -/
def execSmr (r : Reg) (ix : IxSel) (i : Bool) (addr : Lit5) (s : State)
    (c : Config := Config.standard) : Outcome :=
  loadAt c s ix i addr fun v t => t.writeGpr r (subWrap (s.readGpr r) v)

/-- AIR: `GPR[r] <- wrap16(GPR[r] + value)` (R153). -/
def execAir (r : Reg) (value : Lit5) (s : State)
    (c : Config := Config.standard) : Outcome :=
  advance c s fun t => t.writeGpr r (addWrap (s.readGpr r) (literal value))

/-- SIR: `GPR[r] <- wrap16(GPR[r] - value)` (R154). -/
def execSir (r : Reg) (value : Lit5) (s : State)
    (c : Config := Config.standard) : Outcome :=
  advance c s fun t => t.writeGpr r (subWrap (s.readGpr r) (literal value))

/-- MLT: `ALU_MLT` of the two registers into the pair `rx`, `rx + 1` (R157, R158). -/
def execMlt (rx ry : Reg) (s : State)
    (c : Config := Config.standard) : Outcome :=
  pairOp c s rx ry (fun _ _ => none) c.aluMlt

/-- DVD: a zero divisor is `DivideByZero`, tested after the parity; otherwise `ALU_DVD` into the
pair (R157, R160, R232). -/
def execDvd (rx ry : Reg) (s : State)
    (c : Config := Config.standard) : Outcome :=
  pairOp c s rx ry (fun _ d => if d = 0 then some .divideByZero else none) c.aluDvd

end Sys2Proof.Machine
end

