-- ==== Sys2Proof/Machine/Control.lean ====
section
/-! DEFINITION. The meanings of HLT, TRAP, SETCCE (41_control.md).
`s` is the state after the fetch latches; `c` is the configuration, R9's defaults unless given. -/

namespace Sys2Proof.Machine

/-- HLT: halt; the PC stays on the word. The zero word never reaches this rule (R120). -/
def execHlt (s : State) (_c : Config := Config.standard) : Outcome :=
  .next s.halt

/-- TRAP: always `UnknownOpcode`; the code is ignored (R121). -/
def execTrap (_code : Nibble) (s : State) (c : Config := Config.standard) : Outcome :=
  .next (raise c .unknownOpcode s)

/-- SETCCE: always `UnknownOpcode`; CC is not written (R122). -/
def execSetcce (s : State) (c : Config := Config.standard) : Outcome :=
  .next (raise c .unknownOpcode s)

end Sys2Proof.Machine
end

