-- ==== Sys2Proof/Machine/InputOutput.lean ====
section
/-! DEFINITION. The meanings of IN, OUT, CHK (47_io.md).
`s` is the state after the fetch latches; `c` is the configuration, R9's defaults unless given. -/

namespace Sys2Proof.Machine

/-- IN: `GPR[r] <- PortRead(value)` (R186). -/
def execInp (r : Reg) (value : Lit5) (s : State) (c : Config := Config.standard) : Outcome :=
  portAsk c s .read r value

/-- OUT: `PortWrite(value, GPR[r])`; no register and no memory word changes (R187). -/
def execOut (r : Reg) (value : Lit5) (s : State) (c : Config := Config.standard) : Outcome :=
  advance c s fun t => t.logPort (.written value (s.readGpr r))

/-- CHK: `GPR[r] <- PortStatus(value)` (R188). -/
def execChk (r : Reg) (value : Lit5) (s : State) (c : Config := Config.standard) : Outcome :=
  portAsk c s .status r value

end Sys2Proof.Machine
end

