-- ==== Sys2Proof/Machine/LoadStore.lean ====
section
/-! DEFINITION. The meanings of LDR, STR, LDA, LDX, STX (42_load_store.md).
`s` is the state after the fetch latches; `c` is the configuration, R9's defaults unless given. -/

namespace Sys2Proof.Machine

/-- LDR: `GPR[r] <- MEM[ea]` (R125). -/
def execLdr (r : Reg) (ix : IxSel) (i : Bool) (addr : Lit5) (s : State)
    (c : Config := Config.standard) : Outcome :=
  loadAt c s ix i addr fun v t => t.writeGpr r v

/-- STR: `MEM[ea] <- GPR[r]` (R126). -/
def execStr (r : Reg) (ix : IxSel) (i : Bool) (addr : Lit5) (s : State)
    (c : Config := Config.standard) : Outcome :=
  storeAt c s ix i addr (s.readGpr r)

/-- LDA: the literal plus the index, wrapped; no memory is read, `i` is ignored and nothing is
range-checked (R127). -/
def execLda (r : Reg) (ix : IxSel) (_i : Bool) (addr : Lit5) (s : State)
    (c : Config := Config.standard) : Outcome :=
  advance c s fun t => t.writeGpr r (addWrap (literal addr) (s.readIxr ix))

/-- LDX: `IXR[ix] <- MEM[ea]`, the address indexed by the old `IXR[ix]`; `ix = 0` is
`UnknownOpcode` (R128). -/
def execLdx (ix : IxSel) (i : Bool) (addr : Lit5) (s : State)
    (c : Config := Config.standard) : Outcome :=
  if ix = 0 then .next (raise c .unknownOpcode s)
  else loadAt c s ix i addr fun v t => t.writeIxr ix v

/-- STX: `MEM[ea] <- IXR[ix]`, the address indexed by that register; `ix = 0` is
`UnknownOpcode` (R129). -/
def execStx (ix : IxSel) (i : Bool) (addr : Lit5) (s : State)
    (c : Config := Config.standard) : Outcome :=
  if ix = 0 then .next (raise c .unknownOpcode s)
  else storeAt c s ix i addr (s.readIxr ix)

end Sys2Proof.Machine
end

