-- ==== Sys2Proof/Machine/Logical.lean ====
section
/-! DEFINITION. The meanings of TRR, AND, ORR, NOT (45_logical.md).
`s` is the state after the fetch latches; `c` is the configuration, R9's defaults unless given. -/

namespace Sys2Proof.Machine

/-- TRR: `CC <- ALU_TRR(CC, GPR[rx], GPR[ry])`; no general register is written (R166). -/
def execTrr (rx ry : Reg) (s : State) (c : Config := Config.standard) : Outcome :=
  advance c s fun t => t.setCc (c.aluTrr s.cc (s.readGpr rx) (s.readGpr ry))

/-- AND: `GPR[rx] <- GPR[rx] & GPR[ry]` (R167). -/
def execAnd (rx ry : Reg) (s : State) (c : Config := Config.standard) : Outcome :=
  advance c s fun t => t.writeGpr rx (s.readGpr rx &&& s.readGpr ry)

/-- ORR: `GPR[rx] <- GPR[rx] | GPR[ry]` (R168). -/
def execOrr (rx ry : Reg) (s : State) (c : Config := Config.standard) : Outcome :=
  advance c s fun t => t.writeGpr rx (s.readGpr rx ||| s.readGpr ry)

/-- NOT: the 16-bit complement of `GPR[r]` (R169). -/
def execNot (r : Reg) (s : State) (c : Config := Config.standard) : Outcome :=
  advance c s fun t => t.writeGpr r (complement (s.readGpr r))

end Sys2Proof.Machine
end

