-- ==== Sys2Proof/Machine/Placeholders.lean ====
section
/-! DEFINITION. The meanings of the seven floating-point and vector placeholders (48_float_vector_stubs.md).
`s` is the state after the fetch latches; `c` is the configuration, R9's defaults unless given. -/

namespace Sys2Proof.Machine

/-- FADD: a placeholder; the PC advances, no field is used and no address is resolved (R195, R196). -/
def execFadd (_r : Reg) (_ix : IxSel) (_i : Bool) (_addr : Lit5) (s : State)
    (c : Config := Config.standard) : Outcome :=
  advance c s fun t => t

/-- FSUB: a placeholder; the PC advances, no field is used and no address is resolved (R195, R197). -/
def execFsub (_r : Reg) (_ix : IxSel) (_i : Bool) (_addr : Lit5) (s : State)
    (c : Config := Config.standard) : Outcome :=
  advance c s fun t => t

/-- VADD: a placeholder; the PC advances, no field is used and no address is resolved (R195, R198). -/
def execVadd (_r : Reg) (_ix : IxSel) (_i : Bool) (_addr : Lit5) (s : State)
    (c : Config := Config.standard) : Outcome :=
  advance c s fun t => t

/-- VSUB: a placeholder; the PC advances, no field is used and no address is resolved (R195, R199). -/
def execVsub (_r : Reg) (_ix : IxSel) (_i : Bool) (_addr : Lit5) (s : State)
    (c : Config := Config.standard) : Outcome :=
  advance c s fun t => t

/-- CNVRT: a placeholder; the PC advances, no field is used and no address is resolved (R195, R200). -/
def execCnvrt (_r : Reg) (_ix : IxSel) (_i : Bool) (_addr : Lit5) (s : State)
    (c : Config := Config.standard) : Outcome :=
  advance c s fun t => t

/-- LDFR: a placeholder; the PC advances, no field is used and no address is resolved (R195, R201). -/
def execLdfr (_r : Reg) (_ix : IxSel) (_i : Bool) (_addr : Lit5) (s : State)
    (c : Config := Config.standard) : Outcome :=
  advance c s fun t => t

/-- STFR: a placeholder; the PC advances, no field is used and no address is resolved (R195, R202). -/
def execStfr (_r : Reg) (_ix : IxSel) (_i : Bool) (_addr : Lit5) (s : State)
    (c : Config := Config.standard) : Outcome :=
  advance c s fun t => t

end Sys2Proof.Machine
end

