-- ==== Sys2Proof/Machine/ShiftRotate.lean ====
section
/-! DEFINITION. The meanings of SRC, RRC (46_shift_rotate.md).
`s` is the state after the fetch latches; `c` is the configuration, R9's defaults unless given. -/

namespace Sys2Proof.Machine

/-- SRC: shift `GPR[r]` (R176). -/
def execSrc (r : Reg) (lr al : Bool) (count : Nibble) (s : State)
    (c : Config := Config.standard) : Outcome :=
  advance c s fun t => t.writeGpr r (shiftValue lr al count (s.readGpr r))

/-- RRC: rotate `GPR[r]`; `al` is decoded and ignored (R177). -/
def execRrc (r : Reg) (lr _al : Bool) (count : Nibble) (s : State)
    (c : Config := Config.standard) : Outcome :=
  advance c s fun t => t.writeGpr r (rotateValue lr count (s.readGpr r))

end Sys2Proof.Machine
end

