-- ==== Sys2Proof/Machine/Transfer.lean ====
section
/-! DEFINITION. The meanings of JZ, JNE, JGE, JCC, JMA, JSR, RFS, SOB (43_transfer.md).
`s` is the state after the fetch latches; `c` is the configuration, R9's defaults unless given. -/

namespace Sys2Proof.Machine

/-- JZ: branch if `GPR[r] = 0` (R135). -/
def execJz (r : Reg) (ix : IxSel) (i : Bool) (addr : Lit5) (s : State)
    (c : Config := Config.standard) : Outcome :=
  branchAt c s ix i addr (isZero (s.readGpr r)) fun t => t

/-- JNE: branch if `GPR[r] != 0` (R136). -/
def execJne (r : Reg) (ix : IxSel) (i : Bool) (addr : Lit5) (s : State)
    (c : Config := Config.standard) : Outcome :=
  branchAt c s ix i addr (isNonzero (s.readGpr r)) fun t => t

/-- JGE: branch if `signed16(GPR[r]) >= 0` (R137). -/
def execJge (r : Reg) (ix : IxSel) (i : Bool) (addr : Lit5) (s : State)
    (c : Config := Config.standard) : Outcome :=
  branchAt c s ix i addr (isNonnegative (s.readGpr r)) fun t => t

/-- JCC: branch if CC equals the selector in the `r` field (R138). -/
def execJcc (r : Reg) (ix : IxSel) (i : Bool) (addr : Lit5) (s : State)
    (c : Config := Config.standard) : Outcome :=
  branchAt c s ix i addr (ccMatches s.cc r) fun t => t

/-- JMA: branch always (R139). -/
def execJma (ix : IxSel) (i : Bool) (addr : Lit5) (s : State)
    (c : Config := Config.standard) : Outcome :=
  branchAt c s ix i addr true fun t => t

/-- JSR: `GPR[3] <- PC + 1`, unchecked and up to 2048, and branch (R140). -/
def execJsr (ix : IxSel) (i : Bool) (addr : Lit5) (s : State)
    (c : Config := Config.standard) : Outcome :=
  branchAt c s ix i addr true fun t => t.writeGpr 3 (BitVec.ofNat 16 (s.pc.toNat + 1))

/-- RFS: check `GPR[3]`; then `GPR[0]` gets the literal and the PC gets `GPR[3]` (R141). -/
def execRfs (addr : Lit5) (s : State)
    (c : Config := Config.standard) : Outcome :=
  match checkAddr (s.readGpr 3).toNat with
  | .error f => .next (raise c f s)
  | .ok t => .next ((s.writeGpr 0 (literal addr)).setPc t)

/-- SOB: decrement with wrap, branch if the wrapped result is positive (R142). -/
def execSob (r : Reg) (ix : IxSel) (i : Bool) (addr : Lit5) (s : State)
    (c : Config := Config.standard) : Outcome :=
  branchAt c s ix i addr (isPositive (subWrap (s.readGpr r) 1)) fun t =>
    t.writeGpr r (subWrap (s.readGpr r) 1)

end Sys2Proof.Machine
end

