-- ==== Sys2Proof/Machine/Configured.lean ====
section
/-! DEFINITION. The same machine under any configuration: `execIn` gives every meaning the
parameters of rule R9, and `stepIn` is the step under them. `exec` and `step` are these two at
`Config.standard` (Laws/Cycle.lean). -/

namespace Sys2Proof.Machine

/-- Dispatch under the configuration `c` (R106). -/
def execIn (c : Config) (i : Instr) (s : State) : Outcome :=
  match i with
  | .hlt => execHlt s c
  | .trap code => execTrap code s c
  | .setcce => execSetcce s c
  | .ldr r ix ind addr => execLdr r ix ind addr s c
  | .str r ix ind addr => execStr r ix ind addr s c
  | .lda r ix ind addr => execLda r ix ind addr s c
  | .ldx ix ind addr => execLdx ix ind addr s c
  | .stx ix ind addr => execStx ix ind addr s c
  | .jz r ix ind addr => execJz r ix ind addr s c
  | .jne r ix ind addr => execJne r ix ind addr s c
  | .jcc r ix ind addr => execJcc r ix ind addr s c
  | .jma ix ind addr => execJma ix ind addr s c
  | .jsr ix ind addr => execJsr ix ind addr s c
  | .rfs addr => execRfs addr s c
  | .sob r ix ind addr => execSob r ix ind addr s c
  | .jge r ix ind addr => execJge r ix ind addr s c
  | .amr r ix ind addr => execAmr r ix ind addr s c
  | .smr r ix ind addr => execSmr r ix ind addr s c
  | .air r value => execAir r value s c
  | .sir r value => execSir r value s c
  | .mlt rx ry => execMlt rx ry s c
  | .dvd rx ry => execDvd rx ry s c
  | .trr rx ry => execTrr rx ry s c
  | .and rx ry => execAnd rx ry s c
  | .orr rx ry => execOrr rx ry s c
  | .not r => execNot r s c
  | .src r lr al count => execSrc r lr al count s c
  | .rrc r lr al count => execRrc r lr al count s c
  | .inp r value => execInp r value s c
  | .out r value => execOut r value s c
  | .chk r value => execChk r value s c
  | .fadd r ix ind addr => execFadd r ix ind addr s c
  | .fsub r ix ind addr => execFsub r ix ind addr s c
  | .vadd r ix ind addr => execVadd r ix ind addr s c
  | .vsub r ix ind addr => execVsub r ix ind addr s c
  | .cnvrt r ix ind addr => execCnvrt r ix ind addr s c
  | .ldfr r ix ind addr => execLdfr r ix ind addr s c
  | .stfr r ix ind addr => execStfr r ix ind addr s c

/-- One step under the configuration `c`: `cycle` with `execIn` (R100). -/
def stepIn (c : Config) (s : State) : Outcome := cycle c (execIn c) s

end Sys2Proof.Machine
end

