-- ==== Sys2Proof/Machine/Step.lean ====
section
/-! DEFINITION. One step of the machine under the standard configuration, and the placing of an
instruction where the next step fetches it. -/

namespace Sys2Proof.Machine

/-- `step` (R100): the cycle with `exec`, under R9's defaults. -/
def step (s : State) : Host.Outcome State Fault Refusal := cycle Config.standard exec s

/-- `s` with the word `w` (its low `nbits` bits) stored at the PC, where the next step fetches; as
`loadProgram` does, it changes memory only (R209, R258, log entry 11). -/
def State.withFetchWord (s : State) (nbits w : Nat) : State :=
  s.writeMem s.pc (BitVec.ofNat 16 (w % 2 ^ nbits))

end Sys2Proof.Machine
end

