-- ==== Sys2Proof/Machine/Assembler.lean ====
section
/-! DEFINITION. The encoder and format validator (R76 to R87) and the assembler directives
(R90 to R96): from a mnemonic and an operand list to a word or the first error, and from source
lines to `(address, word)` pairs. No register and no memory word of the execute side is touched
(R87, R234). -/

namespace Sys2Proof.Machine

/-- The three encode errors; they are results, never machine faults (R80 to R82, R234). -/
inductive EncodeError where
  | unknownOpcode | arityError | rangeError
  deriving DecidableEq, Repr

/-- The mnemonic of a spelling, exact upper case (R80). -/
def lookupName (name : String) : Option Mnemonic := Mnemonic.all.find? fun m => m.name == name

/-- How many operands a layout must have, and how many more it may have (R81). -/
def layoutArity : Layout → Nat × Nat
  | .standard => (3, 1)
  | .indexOnly => (2, 1)
  | .shiftRotate => (4, 0)
  | .immediateOrPort => (2, 0)
  | .registerRegister => (2, 0)
  | .registerOnly => (1, 0)
  | .ret => (1, 0)
  | .trapCode => (1, 0)
  | .noOperand => (0, 0)

/-- The least legal index selector: LDX and STX refuse 0 (R82, R84). -/
def leastIx : Mnemonic → Nat
  | .ldx | .stx => 1
  | _ => 0

/-- The legal range of each operand, least and greatest, in operand order (R77, R82). -/
def operandRanges (m : Mnemonic) : List (Nat × Nat) :=
  match m.layout with
  | .standard => [(0, 3), (0, 3), (0, 31), (0, 1)]
  | .indexOnly => [(leastIx m, 3), (0, 31), (0, 1)]
  | .shiftRotate => [(0, 3), (0, 15), (0, 1), (0, 1)]
  | .immediateOrPort => [(0, 3), (0, 31)]
  | .registerRegister => [(0, 3), (0, 3)]
  | .registerOnly => [(0, 3)]
  | .ret => [(0, 31)]
  | .trapCode => [(0, 15)]
  | .noOperand => []

/-- Whether every supplied operand is in the range of its field (R82). -/
def operandsInRange : List Nat → List (Nat × Nat) → Bool
  | [], _ => true
  | _ :: _, [] => false
  | v :: vs, (lo, hi) :: rs => decide (lo ≤ v) && decide (v ≤ hi) && operandsInRange vs rs

/-- The operand in position `k`; an omitted optional operand is 0 (R54, R86). -/
def operandAt (ops : List Nat) (k : Nat) : Nat := ops.getD k 0

/-- The value below the opcode, by the value formula of each layout (R56 to R65) with the operands
in the order of R77. -/
def fieldValue (l : Layout) (ops : List Nat) : Nat :=
  match l with
  | .standard =>
    operandAt ops 0 * 256 + operandAt ops 1 * 64 + operandAt ops 3 * 32 + operandAt ops 2
  | .indexOnly => operandAt ops 0 * 64 + operandAt ops 2 * 32 + operandAt ops 1
  | .shiftRotate =>
    operandAt ops 0 * 256 + operandAt ops 2 * 128 + operandAt ops 3 * 64 + operandAt ops 1
  | .immediateOrPort => operandAt ops 0 * 256 + operandAt ops 1
  | .registerRegister => operandAt ops 0 * 256 + operandAt ops 1 * 64
  | .registerOnly => operandAt ops 0 * 256
  | .ret => operandAt ops 0
  | .trapCode => operandAt ops 0
  | .noOperand => 0

/-- `encode(mnemonic, operands)`: lookup, then arity, then range, first failure reported (R85), and
the packed word (R86). -/
def assemble (opc : Mnemonic → BitVec 6) (name : String) (ops : List Nat) :
    Except EncodeError Word :=
  match lookupName name with
  | none => .error .unknownOpcode
  | some m =>
    if ops.length < (layoutArity m.layout).1 ∨
        (layoutArity m.layout).1 + (layoutArity m.layout).2 < ops.length then
      .error .arityError
    else if operandsInRange ops (operandRanges m) then
      .ok (BitVec.ofNat 16 ((opc m).toNat * 1024 + fieldValue m.layout ops))
    else .error .rangeError

/-- The operand list of an instruction, in the order of R77, the indirect flag written out. -/
def operandsOf : Instr → List Nat
  | .hlt | .setcce => []
  | .trap code => [code.toNat]
  | .ldr r ix i a | .str r ix i a | .lda r ix i a | .jz r ix i a | .jne r ix i a
  | .jcc r ix i a | .sob r ix i a | .jge r ix i a | .amr r ix i a | .smr r ix i a
  | .fadd r ix i a | .fsub r ix i a | .vadd r ix i a | .vsub r ix i a | .cnvrt r ix i a
  | .ldfr r ix i a | .stfr r ix i a => [r.toNat, ix.toNat, a.toNat, i.toNat]
  | .ldx ix i a | .stx ix i a | .jma ix i a | .jsr ix i a => [ix.toNat, a.toNat, i.toNat]
  | .rfs a => [a.toNat]
  | .air r v | .sir r v | .inp r v | .out r v | .chk r v => [r.toNat, v.toNat]
  | .mlt rx ry | .dvd rx ry | .trr rx ry | .and rx ry | .orr rx ry => [rx.toNat, ry.toNat]
  | .not r => [r.toNat]
  | .src r lr al k | .rrc r lr al k => [r.toNat, k.toNat, lr.toNat, al.toNat]

/-- Whether a word is one the encoder can produce: a known mnemonic, every reserved bit 0 and
encoder-legal fields (R79, R220). -/
def validWord (opc : Mnemonic → BitVec 6) (w : Word) : Bool :=
  match decode opc w with
  | .known i true => i.wellFormed
  | _ => false

/-! ### Lines, directives and the location counter (R90 to R95) -/

/-- An operand of DATA: a number, or the literal `END` (R92, R93). -/
inductive DataOperand where
  | value (v : Nat)
  | endMark
  deriving DecidableEq, Repr

/-- A parsed source line: an instruction or one of the two directives, which never reach the
opcode lookup (R80, R91, R92). -/
inductive Line where
  | instruction (name : String) (ops : List Nat)
  | loc (ops : List Nat)
  | data (ops : List DataOperand)
  deriving DecidableEq, Repr

/-- The end-of-program sentinel (R93). -/
def endSentinel : Nat := 1024

/-- The number a DATA operand stands for (R93). -/
def DataOperand.number : DataOperand → Nat
  | .value v => v
  | .endMark => endSentinel

/-- The word of a DATA line: exactly one operand, at most 65535 (R92). -/
def dataWord : List DataOperand → Except EncodeError Word
  | [d] => if d.number < 65536 then .ok (BitVec.ofNat 16 d.number) else .error .rangeError
  | _ => .error .arityError

/-- Emitting a word at the location counter, which advances by one; at 2048 no address is left
(R94). A failed line leaves the counter. -/
def emit (lc : Nat) : Except EncodeError Word → Nat × Except EncodeError (Option (Nat × Word))
  | .error e => (lc, .error e)
  | .ok w => if lc ≤ maxAddr then (lc + 1, .ok (some (lc, w))) else (lc, .error .rangeError)

/-- One line: the new location counter, and the emitted pair (none for LOC) or the error (R91 to
R94). -/
def assembleLine (opc : Mnemonic → BitVec 6) (lc : Nat) :
    Line → Nat × Except EncodeError (Option (Nat × Word))
  | .instruction name ops => emit lc (assemble opc name ops)
  | .data ops => emit lc (dataWord ops)
  | .loc [n] => if n ≤ maxAddr then (n, .ok none) else (lc, .error .rangeError)
  | .loc _ => (lc, .error .arityError)

/-- What an assembly session has produced: the pairs and the diagnostics, in source order. R95 says
only "record a diagnostic". What one holds is the model's: the bare kind of error, with no line
number, address or source text. DESIGN CHOICE, safe for the machine (log entry 27). -/
structure Listing where
  pairs : List (Nat × Word)
  errors : List EncodeError
  deriving DecidableEq, Repr

/-- All lines in order, from a location counter: a failed line adds a diagnostic and the session
goes on (R95, R96). -/
def assembleFrom (opc : Mnemonic → BitVec 6) : Nat → List Line → Nat × Listing
  | lc, [] => (lc, ⟨[], []⟩)
  | lc, line :: rest =>
    let here := assembleLine opc lc line
    let after := assembleFrom opc here.1 rest
    match here.2 with
    | .ok (some p) => (after.1, ⟨p :: after.2.pairs, after.2.errors⟩)
    | .ok none => after
    | .error e => (after.1, ⟨after.2.pairs, e :: after.2.errors⟩)

/-- A whole assembly session on the machine's encoder side: the counter starts at 0 (R90) and the
state keeps the last one (R22); nothing else of the state is touched (R87). -/
def State.assembleSession (s : State) (c : Config) (lines : List Line) : State × Listing :=
  ({ s with lc := (assembleFrom c.opc 0 lines).1 }, (assembleFrom c.opc 0 lines).2)

/-- The load image of a listing, as `loadProgram` takes it (R209, R258). -/
def Listing.image (l : Listing) : List (Nat × Nat) := l.pairs.map fun p => (p.1, p.2.toNat)

end Sys2Proof.Machine
end

