-- ==== Sys2Proof/Machine/Commands.lean ====
section
/-! DEFINITION. The commands of the host (R206 to R212) and the read-only snapshot (R215). Commands
never overlap a step (R211): each is one function of the state. -/

namespace Sys2Proof.Machine

/-- `reset` under a given `PC_RESET`: the execute side returns to the session start (R210, R255).
What is not execute-side state stays: the location counter (R256) and the two output histories. -/
def State.resetCommand (s : State) (pcReset : Addr := Config.pcResetDefault) : State :=
  { State.resetAt pcReset with lc := s.lc, portLog := s.portLog, trace := s.trace }

/-- The writes of a load, pair by pair in order, so that a later pair for one address wins; the
first pair out of range refuses (R209). -/
def loadPairs : List (Nat × Nat) → State → Except Fault State
  | [], s => .ok s
  | (a, v) :: rest, s =>
    if v < 65536 then
      match memWrite a (BitVec.ofNat 16 v) s with
      | .error f => .error f
      | .ok t => loadPairs rest t
    else .error (.addressOutOfRange v)

/-- `loadProgram(pairs)`: the writes, or no effect at all if a pair is out of range (R209). -/
def State.loadProgram (pairs : List (Nat × Nat)) (s : State) : State :=
  match loadPairs pairs s with
  | .ok t => t
  | .error _ => s

/-- `stop`: `STOP_REQ <- 1` and nothing else (R212). -/
def State.stop (s : State) : State := { s with stopReq := true }

/-- Acting on the stop request: `STOP_REQ <- 0; RUN <- Halted`, with the halt record (R240). -/
def State.takeStop (s : State) : State := State.halt { s with stopReq := false }

/-- `run` with the step function `stp` (R111, R240). The list bounds the number of steps and says,
for each, whether a stop request arrives while it executes (R114: the moments are free inputs); a
run whose list ends before it is over answers the state it has reached. -/
def runWith (stp : State → Outcome) : List Bool → State → Outcome
  | [], s => .next s
  | arrives :: rest, s =>
    match s.run with
    | .halted | .faulted => .next s
    | .ready =>
      if s.stopReq then .next s.takeStop
      else
        match stp s with
        | .next t => runWith stp rest (if arrives then t.stop else t)
        | .fault f => .fault f
        | .refused r => .refused r

/-- The `run` command under the standard configuration (R208). -/
def State.runCommand (s : State) (arrivals : List Bool) : Outcome := runWith step arrivals s

/-- The commands of the execute side, exactly five (R206). -/
inductive Command where
  | reset
  | loadProgram (pairs : List (Nat × Nat))
  | step
  | run (arrivals : List Bool)
  | stop
  deriving DecidableEq, Repr

/-- What each command does (R207 to R212). `step` alone does not sample the stop latch (R240). -/
def perform (cmd : Command) (s : State) : Outcome :=
  match cmd with
  | .reset => .next s.resetCommand
  | .loadProgram pairs => .next (s.loadProgram pairs)
  | .step => Sys2Proof.Machine.step s
  | .run arrivals => s.runCommand arrivals
  | .stop => .next s.stop

/-- What each command does under the configuration `c`; `perform` is the case of the standard one
(Laws/Cycle.lean). -/
def performIn (c : Config) (cmd : Command) (s : State) : Outcome :=
  match cmd with
  | .reset => .next (s.resetCommand c.pcReset)
  | .loadProgram pairs => .next (s.loadProgram pairs)
  | .step => stepIn c s
  | .run arrivals => runWith (stepIn c) arrivals s
  | .stop => .next s.stop

/-- The snapshot outputs of R215; memory is read word by word with `State.readMem`. -/
structure Snapshot where
  gpr : Vector Word 4
  ixr : Vector Word 3
  pc : Addr
  mar : Addr
  mbr : Word
  ir : Word
  cc : Nibble
  mfr : Nibble
  run : RunState
  deriving DecidableEq, Repr

/-- Reading a snapshot; the state is not changed (R215). -/
def State.snapshot (s : State) : Snapshot :=
  ⟨s.gpr, s.ixr, s.pc, s.mar, s.mbr, s.ir, s.cc, s.mfr, s.run⟩

/-- The words handed to devices, oldest first: the output history of R185. -/
def outputHistory : List PortEvent → List (Lit5 × Word)
  | [] => []
  | .answered _ _ _ :: rest => outputHistory rest
  | .written d v :: rest => outputHistory rest ++ [(d, v)]

end Sys2Proof.Machine
end

