-- ==== Sys2Proof/Safety.lean ====
section
/-! DEFINITION. The words statements about this machine are made of: the invariant of R25, clean
ends of a run (R115), and what a step leaves unchanged. -/

namespace Sys2Proof.Machine

/-- The MFR values of rule R25 under a configuration. -/
def legalMfr (c : Config) (v : Nibble) : Prop :=
  v = 0 ∨ v = c.mfrUnknownOpcode ∨ v = c.mfrDivideByZero ∨ v = c.mfrAddressRange

/-- The invariant of R25 that holds for every admissible configuration: memory in canonical form
(addresses within 0..2047), `MFR = 0` exactly when not `Faulted`, a legal fault code, and the range
of the location counter. The 16-bit and 11-bit ranges of R25 are the types of the fields. -/
structure InvariantIn (c : Config) (s : State) : Prop where
  memory : s.mem.wf = true
  mfr_faulted : s.mfr = 0 ↔ s.run ≠ .faulted
  mfr_legal : legalMfr c s.mfr
  lc_range : s.lc ≤ maxAddr + 1

/-- The invariant of R25 under the standard configuration: also CC is 0 or 8. -/
structure Invariant (s : State) : Prop extends InvariantIn Config.standard s where
  cc_legal : s.cc = 0 ∨ s.cc = 8

/-- The one successful end of a run: `Halted` with `MFR = 0` (R115). -/
def CleanEnd (s : State) : Prop := s.run = .halted ∧ s.mfr = 0

/-! ### Frames: what is the same in `t` as in `s` -/

/-- Every general register but those in `ws` is unchanged. -/
def GprsKept (ws : List Reg) (s t : State) : Prop := ∀ r, r ∉ ws → t.readGpr r = s.readGpr r

/-- Every index register but those in `ws` is unchanged. -/
def IxrsKept (ws : List IxSel) (s t : State) : Prop := ∀ x, x ∉ ws → t.readIxr x = s.readIxr x

/-- Every word of memory is unchanged. -/
def MemKept (s t : State) : Prop := ∀ a, t.readMem a = s.readMem a

/-- Every word of memory but the one at `d` is unchanged. -/
def MemKeptBut (d : Addr) (s t : State) : Prop := ∀ a, a ≠ d → t.readMem a = s.readMem a

/-- The fault register, the run state, the instruction register, the stop latch and the location
counter are unchanged. -/
def ControlKept (s t : State) : Prop :=
  t.mfr = s.mfr ∧ t.run = s.run ∧ t.ir = s.ir ∧ t.stopReq = s.stopReq ∧ t.lc = s.lc

/-- MAR and MBR are unchanged: after a fetch they still hold the fetch latches (R110). -/
def LatchesKept (s t : State) : Prop := t.mar = s.mar ∧ t.mbr = s.mbr

/-- MAR and MBR hold the pointer read of an indirect address, or are unchanged (R110). -/
def LatchesPointer (e : Resolved) (s t : State) : Prop :=
  t.mar = (s.latchPointer e).mar ∧ t.mbr = (s.latchPointer e).mbr

/-- The port history and the trace are unchanged. -/
def OutputsKept (s t : State) : Prop := t.portLog = s.portLog ∧ t.trace = s.trace

/-- The frame of an instruction that stores nothing, writes no flag and no index register, uses no
port and changes at most the general registers `ws`, MAR, MBR and the PC. -/
def RegisterFrame (ws : List Reg) (s t : State) : Prop :=
  GprsKept ws s t ∧ IxrsKept [] s t ∧ MemKept s t ∧ t.cc = s.cc ∧ ControlKept s t ∧
    OutputsKept s t

/-! ### Which instructions a rule speaks of -/

/-- The address fields of the thirteen addressed instructions (R38); LDX and STX with `ix = 0` fault
before they resolve an address (R242, row 8). -/
def addressFields : Instr → Option (IxSel × Bool × Lit5)
  | .ldr _ ix i a | .str _ ix i a | .amr _ ix i a | .smr _ ix i a
  | .jz _ ix i a | .jne _ ix i a | .jge _ ix i a | .jcc _ ix i a | .sob _ ix i a
  | .jma ix i a | .jsr ix i a => some (ix, i, a)
  | .ldx ix i a | .stx ix i a => if ix = 0 then none else some (ix, i, a)
  | .hlt | .trap _ | .setcce | .lda .. | .rfs _ | .air .. | .sir .. | .mlt .. | .dvd ..
  | .trr .. | .and .. | .orr .. | .not _ | .src .. | .rrc .. | .inp .. | .out .. | .chk ..
  | .fadd .. | .fsub .. | .vadd .. | .vsub .. | .cnvrt .. | .ldfr .. | .stfr .. => none

/-- The transfer family, whose rules may set the PC to something else than the next address (R143). -/
def isTransfer : Instr → Bool
  | .jz .. | .jne .. | .jcc .. | .jma .. | .jsr .. | .rfs _ | .sob .. | .jge .. => true
  | .hlt | .trap _ | .setcce | .ldr .. | .str .. | .lda .. | .ldx .. | .stx ..
  | .amr .. | .smr .. | .air .. | .sir .. | .mlt .. | .dvd ..
  | .trr .. | .and .. | .orr .. | .not _ | .src .. | .rrc .. | .inp .. | .out .. | .chk ..
  | .fadd .. | .fsub .. | .vadd .. | .vsub .. | .cnvrt .. | .ldfr .. | .stfr .. => false

/-- Whether the rule of an instruction sets the PC itself in the state `s` instead of ending in `next`
(R108): the jumps, the call and the return always, a conditional branch when it is taken (R135 to
R138, R142). The conditions are written over numbers. -/
def setsPc (i : Instr) (s : State) : Bool :=
  match i with
  | .jma .. | .jsr .. | .rfs _ => true
  | .jz r .. => s.readGpr r == 0
  | .jne r .. => s.readGpr r != 0
  | .jge r .. => decide ((s.readGpr r).toNat ≤ 32767)
  | .jcc sel .. => s.cc.toNat == sel.toNat
  | .sob r .. =>
    let v := ((s.readGpr r).toNat + 65535) % 65536
    decide (1 ≤ v) && decide (v ≤ 32767)
  | .hlt | .trap _ | .setcce | .ldr .. | .str .. | .lda .. | .ldx .. | .stx ..
  | .amr .. | .smr .. | .air .. | .sir .. | .mlt .. | .dvd ..
  | .trr .. | .and .. | .orr .. | .not _ | .src .. | .rrc .. | .inp .. | .out .. | .chk ..
  | .fadd .. | .fsub .. | .vadd .. | .vsub .. | .cnvrt .. | .ldfr .. | .stfr .. => false

/-- HLT, TRAP and SETCCE, the instructions that never advance the PC (R13, R120 to R122). -/
def isControl : Instr → Bool
  | .hlt | .trap _ | .setcce => true
  | .ldr .. | .str .. | .lda .. | .ldx .. | .stx ..
  | .jz .. | .jne .. | .jcc .. | .jma .. | .jsr .. | .rfs _ | .sob .. | .jge ..
  | .amr .. | .smr .. | .air .. | .sir .. | .mlt .. | .dvd ..
  | .trr .. | .and .. | .orr .. | .not _ | .src .. | .rrc .. | .inp .. | .out .. | .chk ..
  | .fadd .. | .fsub .. | .vadd .. | .vsub .. | .cnvrt .. | .ldfr .. | .stfr .. => false

/-- A state with the three registers that no instruction reads set to 0 (R16, R17, R18). -/
def State.withoutLatches (s : State) : State := { s with mar := 0, mbr := 0, ir := 0 }

end Sys2Proof.Machine
end

