-- ==== Sys2Proof/Certificates/Slice0/Obligations.lean ====
section
/-! DEFINITION. The statements about the C6461 core, for the provers. A statement on a rule that the
spec marks as its own decision has basis 'derived' and its docstring names the decision. -/

open Sys2Proof Sys2Proof.Machine

/-- One written word of each layout decodes to its instruction. Derived: 30_encoding.md section 2,
the default opcode numbers (R53; the spec's decision D1); 30_encoding.md section 3, the bit
positions of the nine layouts (R55 to R65; TRAP's layout is the spec's decision D2). The opcode
numbers and TRAP's layout are log entries 3 and 26. -/
def Obligations.WrittenWordsDecode : Prop :=
  decode standardOpc 0b0000110100000101 = .known (.lda 1 0 false 5) true ∧
  decode standardOpc 0b0000101001100111 = .known (.str 2 1 true 7) true ∧
  decode standardOpc 0b1000010010101010 = .known (.ldx 2 true 10) true ∧
  decode standardOpc 0b0110011001000011 = .known (.src 2 false true 3) true ∧
  decode standardOpc 0b1100111100000010 = .known (.chk 3 2) true ∧
  decode standardOpc 0b0100011000000000 = .known (.dvd 2 0) true ∧
  decode standardOpc 0b1001000000000000 = .known .setcce true ∧
  decode standardOpc 0b0101011100000000 = .known (.not 3) true ∧
  decode standardOpc 0b0011010000000111 = .known (.rfs 7) true ∧
  decode standardOpc 0b0110000000000101 = .known (.trap 5) true

/-- Decoding an encoded instruction gives it back, under every injective opcode assignment. Derived:
30_encoding.md sections 3, 5 and 6 (R54, R69, R78). -/
def Obligations.DecodeEncodeRoundTrip : Prop :=
  ∀ opc : Mnemonic → BitVec 6, Function.Injective opc →
    ∀ i : Instr, decode opc (encode opc i) = .known i true

/-- A canonical word is the encoding of the instruction it decodes to. Derived: 30_encoding.md
sections 5 and 6 (R69, R79). -/
def Obligations.CanonicalWordReencodes : Prop :=
  ∀ (opc : Mnemonic → BitVec 6) (w : Word) (i : Instr),
    decode opc w = .known i true → encode opc i = w

/-- Clearing the reserved bits of a word does not change the instruction read from it. Derived:
30_encoding.md section 5 (the spec's decision D15). -/
def Obligations.ReservedBitsAreNotRead : Prop :=
  ∀ (opc : Mnemonic → BitVec 6) (w : Word) (i : Instr) (canonical : Bool),
    decode opc w = .known i canonical →
      decode opc (w &&& ~~~ i.mnemonic.layout.reservedMask) = .known i true

/-- Under the standard opcodes exactly the 26 listed opcode values are unassigned. Derived:
30_encoding.md section 2, the default opcode table (the spec's decision D1). -/
def Obligations.UnassignedOpcodeValues : Prop :=
  ∀ w : Word, decode standardOpc w = .unknown (opField w) ↔
    (opField w).toNat ∈ [22, 23, 32, 35, 37, 38, 39, 42, 43, 44, 45, 46, 47, 48,
      52, 53, 54, 55, 56, 57, 58, 59, 60, 61, 62, 63]

/-- A word the encoder produces decodes to the mnemonic and operands it was given. Derived:
30_encoding.md section 6 (R78, R86; the spec's decisions D3 and D4). -/
def Obligations.AssembledWordDecodesBack : Prop :=
  ∀ opc : Mnemonic → BitVec 6, Function.Injective opc →
    ∀ (name : String) (ops : List Nat) (w : Word), assemble opc name ops = .ok w →
      ∃ i : Instr, decode opc w = .known i true ∧ i.mnemonic.name = name ∧
        i.wellFormed = true ∧ encode opc i = w ∧
        (operandsOf i = ops ∨ operandsOf i = ops ++ [0])

/-- The encoder answers every well-formed instruction's word and refuses LDX and STX without a
register. Derived: 30_encoding.md section 6 (R79, R82, R84, R86; the spec's decision D3). -/
def Obligations.EncoderAcceptsTheWellFormed : Prop :=
  ∀ (opc : Mnemonic → BitVec 6) (i : Instr),
    assemble opc i.mnemonic.name (operandsOf i) =
      if i.wellFormed then .ok (encode opc i) else .error .rangeError

/-- The encoder fails by lookup, then by operand count, then by range, and otherwise packs the word.
Derived: 30_encoding.md section 6, the errors and their order (R80, R81, R82, R85; the spec's
decision D4); 30_encoding.md sections 3 and 6, the value formulas and the packing (R56 to R65, R77,
R86; the spec's decisions D2 and D3). -/
def Obligations.EncoderReportsTheFirstFailure : Prop :=
  ∀ (opc : Mnemonic → BitVec 6) (name : String) (ops : List Nat),
    ((∀ m : Mnemonic, m.name ≠ name) → assemble opc name ops = .error .unknownOpcode) ∧
    (∀ m : Mnemonic, m.name = name →
      (¬ ((m.layout = .standard ∧ (ops.length = 3 ∨ ops.length = 4)) ∨
          (m.layout = .indexOnly ∧ (ops.length = 2 ∨ ops.length = 3)) ∨
          (m.layout = .shiftRotate ∧ ops.length = 4) ∨
          (m.layout = .immediateOrPort ∧ ops.length = 2) ∨
          (m.layout = .registerRegister ∧ ops.length = 2) ∨
          (m.layout = .registerOnly ∧ ops.length = 1) ∨
          (m.layout = .ret ∧ ops.length = 1) ∨
          (m.layout = .trapCode ∧ ops.length = 1) ∨
          (m.layout = .noOperand ∧ ops.length = 0)) ↔
        assemble opc name ops = .error .arityError) ∧
      (assemble opc name ops ≠ .error .arityError →
        (∃ k v lo hi : Nat, ops[k]? = some v ∧ (operandRanges m)[k]? = some (lo, hi) ∧
          (v < lo ∨ hi < v)) →
        assemble opc name ops = .error .rangeError) ∧
      (assemble opc name ops ≠ .error .arityError →
        (∀ k v lo hi : Nat, ops[k]? = some v → (operandRanges m)[k]? = some (lo, hi) →
          lo ≤ v ∧ v ≤ hi) →
        ∃ w, assemble opc name ops = .ok w ∧
          w.toNat = (opc m).toNat * 1024 +
            match m.layout with
            | .standard =>
              ops.getD 0 0 * 256 + ops.getD 1 0 * 64 + ops.getD 3 0 * 32 + ops.getD 2 0
            | .indexOnly => ops.getD 0 0 * 64 + ops.getD 2 0 * 32 + ops.getD 1 0
            | .shiftRotate =>
              ops.getD 0 0 * 256 + ops.getD 2 0 * 128 + ops.getD 3 0 * 64 + ops.getD 1 0
            | .immediateOrPort => ops.getD 0 0 * 256 + ops.getD 1 0
            | .registerRegister => ops.getD 0 0 * 256 + ops.getD 1 0 * 64
            | .registerOnly => ops.getD 0 0 * 256
            | .ret => ops.getD 0 0
            | .trapCode => ops.getD 0 0
            | .noOperand => 0))

/-- DATA END emits the word 1024 at the location counter like any DATA line. Derived: 30_encoding.md
section 7, DATA END (R93) and the counter (R94; the spec's decision D5); 30_encoding.md section 6,
the lookup (R80; the spec's decision D4). That END as a mnemonic is UnknownOpcode is the model's
deduction (log entry 25). -/
def Obligations.DataEndEmitsTheSentinel : Prop :=
  ∀ (opc : Mnemonic → BitVec 6) (lc : Nat), lc ≤ 2047 →
    assembleLine opc lc (.data [.endMark]) = (lc + 1, .ok (some (lc, 1024))) ∧
    assembleLine opc lc (.data [.endMark]) = assembleLine opc lc (.data [.value 1024]) ∧
    ∀ ops, assembleLine opc lc (.instruction "END" ops) = (lc, .error .unknownOpcode)

/-- LOC sets the counter; instructions and DATA emit at it and advance it by one; a failed line
leaves it. Derived: 30_encoding.md section 7, LOC, DATA, emission and recovery (R91, R92, R94, R95;
the spec's decision D5). The form of a line, the error of a LOC operand count, and that a word's own
error comes before a missing address are the model's choices (log entries 17 and 18). -/
def Obligations.LinesMoveTheLocationCounter : Prop :=
  ∀ (opc : Mnemonic → BitVec 6) (lc : Nat),
    (∀ name ops w, assemble opc name ops = .ok w →
      (lc ≤ 2047 → assembleLine opc lc (.instruction name ops) = (lc + 1, .ok (some (lc, w)))) ∧
      (2047 < lc → assembleLine opc lc (.instruction name ops) = (lc, .error .rangeError))) ∧
    (∀ name ops e, assemble opc name ops = .error e →
      assembleLine opc lc (.instruction name ops) = (lc, .error e)) ∧
    (∀ v : Word,
      (lc ≤ 2047 →
        assembleLine opc lc (.data [.value v.toNat]) = (lc + 1, .ok (some (lc, v)))) ∧
      (2047 < lc → assembleLine opc lc (.data [.value v.toNat]) = (lc, .error .rangeError))) ∧
    (∀ v, 65535 < v → assembleLine opc lc (.data [.value v]) = (lc, .error .rangeError)) ∧
    (∀ ops, ops.length ≠ 1 → assembleLine opc lc (.data ops) = (lc, .error .arityError)) ∧
    (∀ n, n ≤ 2047 → assembleLine opc lc (.loc [n]) = (n, .ok none)) ∧
    (∀ n, 2047 < n → assembleLine opc lc (.loc [n]) = (lc, .error .rangeError)) ∧
    (∀ ops, ops.length ≠ 1 → assembleLine opc lc (.loc ops) = (lc, .error .arityError)) ∧
    (∀ line a w lc', assembleLine opc lc line = (lc', .ok (some (a, w))) →
      a = lc ∧ lc ≤ 2047 ∧ lc' = lc + 1) ∧
    (∀ line e lc', assembleLine opc lc line = (lc', .error e) → lc' = lc)

/-- The load image of any assembly session is accepted by loadProgram. Derived: 30_encoding.md
section 7 and 50_interfaces.md section 1 (the spec's decisions D5 and D8). -/
def Obligations.AssembledImageAlwaysLoads : Prop :=
  ∀ (opc : Mnemonic → BitVec 6) (lc : Nat) (lines : List Line) (s : State), lc ≤ 2048 →
    s.mem.wf = true →
    (assembleFrom opc lc lines).1 ≤ 2048 ∧
    ∃ t, loadPairs (assembleFrom opc lc lines).2.image s = .ok t ∧
      s.loadProgram (assembleFrom opc lc lines).2.image = t ∧
      ∀ a : Addr, (∀ p ∈ (assembleFrom opc lc lines).2.pairs, p.1 ≠ a.toNat) →
        t.readMem a = s.readMem a

/-- The effective address: direct, indexed, and one level of indirection, with its range faults.
Derived: 20_memory.md section 5, the resolver (R36, R37; the spec's decisions D11 and D20). The
range faults and the number they carry are the spec's decisions (log entry 26). -/
def Obligations.EffectiveAddressModes : Prop :=
  ∀ (s : State) (a : Lit5),
    (resolve 0 false a s).map (fun e => e.ea.toNat) = .ok a.toNat ∧
    ∀ (ix : IxSel) (i : Bool) (k : Nat), (s.readIxr ix).toNat = k →
      (2047 < a.toNat + k → resolve ix i a s = .error (.addressOutOfRange (a.toNat + k))) ∧
      ∀ b : Addr, b.toNat = a.toNat + k →
        resolve ix false a s = .ok ⟨b, none⟩ ∧
        (2047 < (s.readMem b).toNat →
          resolve ix true a s = .error (.addressOutOfRange (s.readMem b).toNat)) ∧
        ∀ p : Addr, p.toNat = (s.readMem b).toNat →
          resolve ix true a s = .ok ⟨p, some (b, s.readMem b)⟩

/-- A ready step on a nonzero word performs the decoded instruction after the fetch latches.
Derived: 40_execution_cycle.md section 1 (R100, R102, R106). -/
def Obligations.StepRunsTheDecodedInstruction : Prop :=
  ∀ (s : State) (i : Instr) (canonical : Bool), s.run = .ready → s.fetch ≠ 0 →
    decode standardOpc s.fetch = .known i canonical →
      step s = exec i { s with mar := s.pc, mbr := s.fetch, ir := s.fetch }

/-- Fetching the zero word halts with nothing else written. States R101. The record's form is the
model's own (log entry 6). -/
def Obligations.ZeroWordHalts : Prop :=
  ∀ s : State, s.run = .ready → s.readMem s.pc = 0 →
    step s = .next { s with run := .halted, trace := .halt :: s.trace }

/-- An unassigned opcode faults with a nonzero code and does not advance the PC. Derived:
40_execution_cycle.md section 1, decode (R104) and fetch latches (R102; the spec's decision D14);
60_exceptions.md, the fault codes and fault entry (R235, R236, R237; the spec's decisions D12 and
D13). The latches, the code and the frame are the spec's decisions (log entries 3, 13 and 26). -/
def Obligations.UnassignedOpcodeFaults : Prop :=
  ∀ (s : State) (op : BitVec 6), s.run = .ready → s.fetch ≠ 0 →
    decode standardOpc s.fetch = .unknown op →
      ∃ t, step s = .next t ∧ t.mfr ≠ 0 ∧ t.run = .faulted ∧ t.pc = s.pc ∧
        t = raise Config.standard .unknownOpcode (s.latchFetch s.fetch) ∧
        GprsKept [] s t ∧ IxrsKept [] s t ∧ MemKept s t ∧ t.cc = s.cc

/-- With its guard on, the sentinel or a nonzero reserved bit faults before the instruction runs.
Derived: 40_execution_cycle.md section 1, the optional tests (the spec's decisions D15 and D30). -/
def Obligations.OptionalFetchGuardsFault : Prop :=
  ∀ (c : Config) (s : State), s.run = .ready →
    (c.sentinelGuard = true → s.fetch = 1024 →
      stepIn c s = .next (raise c .unknownOpcode (s.latchFetch 1024))) ∧
    (∀ i, c.strictReserved = true → s.fetch ≠ 0 → decode c.opc s.fetch = .known i false →
      stepIn c s = .next (raise c .unknownOpcode (s.latchFetch s.fetch))) ∧
    (s.fetch = 1024 → step s = exec (.ldr 0 0 false 0) (s.latchFetch 1024))

/-- A step that faults changes the fetch latches, MFR and RUN and nothing else, under every
configuration. Derived: 60_exceptions.md section 3 (the spec's decision D13). -/
def Obligations.FaultsArePreciseAndKeepThePc : Prop :=
  ∀ (c : Config) (s t : State), s.run = .ready → stepIn c s = .next t → t.run = .faulted →
    t.pc = s.pc ∧ t.ir = s.fetch ∧ t.mbr = s.fetch ∧ t.mar = s.pc ∧
    (t.mfr = c.mfrUnknownOpcode ∨ t.mfr = c.mfrDivideByZero ∨ t.mfr = c.mfrAddressRange) ∧
    t.gpr = s.gpr ∧ t.ixr = s.ixr ∧ t.cc = s.cc ∧ t.mem = s.mem ∧ t.stopReq = s.stopReq ∧
    t.lc = s.lc ∧ t.portLog = s.portLog ∧ t.trace = s.trace

/-- Fault entry stores the fault's code in MFR, enters Faulted and writes nothing else. Derived:
60_exceptions.md section 3 and its fault-code table (the spec's decisions D12 and D13). -/
def Obligations.FaultEntryWritesCodeAndRunState : Prop :=
  ∀ s : State,
    raise Config.standard .unknownOpcode s = { s with mfr := 4, run := .faulted } ∧
    raise Config.standard .divideByZero s = { s with mfr := 1, run := .faulted } ∧
    ∀ n, raise Config.standard (.addressOutOfRange n) s = { s with mfr := 8, run := .faulted }

/-- The state after reset satisfies the invariant. Derived: 10_state.md section 9, the invariants
and reset values (R24, R25; the spec's decision D7); 30_encoding.md section 7, the counter (R90; the
spec's decision D5). CC = 0 is D7 (log entry 8) and a location counter of 0 is deduced from R90 (log
entry 7). -/
def Obligations.InvariantAtReset : Prop :=
  Invariant State.reset ∧ State.reset.run = .ready ∧ State.reset.mfr = 0 ∧ State.reset.cc = 0 ∧
    State.reset.lc = 0

/-- Every step keeps the invariant: memory canonical, MFR zero exactly when not Faulted, CC 0 or 8.
Derived: 10_state.md section 9, the invariants of every reachable state. -/
def Obligations.StepKeepsTheInvariant : Prop :=
  ∀ s t : State, Invariant s → step s = .next t → Invariant t

/-- Under every admissible configuration a step keeps the configuration-free part of the invariant.
Derived: 10_state.md section 9 and 00_scope.md section 4, the parameters. -/
def Obligations.ConfiguredStepKeepsTheInvariant : Prop :=
  ∀ c : Config, c.Admissible → ∀ s t : State, InvariantIn c s → stepIn c s = .next t → InvariantIn c t

/-- Every host command, a run bounded by its list included, answers a next state and keeps the
invariant. Derived: 50_interfaces.md section 1, the commands (R206 to R212; the spec's decisions D8
and D29); 40_execution_cycle.md section 4, run and its fuel (R111); 10_state.md section 9, the
invariants (R25). A run is bounded by its list of arrivals, which is the model's choice (log entry
19). -/
def Obligations.CommandsKeepTheInvariant : Prop :=
  ∀ (cmd : Command) (s : State), Invariant s → ∃ t, perform cmd s = .next t ∧ Invariant t

/-- No instruction but STR and STX changes any word of memory. Derived: 20_memory.md and 10_state.md
section 7: the instructions that write memory are STR and STX only. -/
def Obligations.OnlyStoresWriteMemory : Prop :=
  ∀ (i : Instr) (s t : State), i.mnemonic ≠ .str → i.mnemonic ≠ .stx → exec i s = .next t →
    MemKept s t

/-- No instruction but TRR changes CC. Derived: 70_reset_and_hazards.md section 3, what persists;
44_arithmetic.md (the spec's decisions D10 and D24). -/
def Obligations.OnlyTrrWritesTheConditionCode : Prop :=
  ∀ (i : Instr) (s t : State), i.mnemonic ≠ .trr → exec i s = .next t → t.cc = s.cc

/-- No instruction but LDX changes an index register, and LDX changes only the one it names.
Derived: 10_state.md section 3: the index registers are written only by LDX. -/
def Obligations.OnlyLdxWritesIndexRegisters : Prop :=
  ∀ (i : Instr) (s t : State) (x : IxSel), exec i s = .next t → t.readIxr x ≠ s.readIxr x →
    ∃ ind addr, i = .ldx x ind addr

/-- A ready step halts exactly when the fetched opcode field is zero, and then keeps the PC and MFR.
Derived: 60_exceptions.md section 4, the ways into Halted (the spec's decision D15). -/
def Obligations.HaltExactlyOnOpcodeZero : Prop :=
  ∀ s t : State, s.run = .ready → step s = .next t →
    (t.run = .halted ↔ opField s.fetch = 0) ∧
    (t.run = .halted → t.pc = s.pc ∧ t.mfr = s.mfr ∧ t.cc = s.cc ∧ t.gpr = s.gpr ∧
      t.ixr = s.ixr ∧ t.mem = s.mem ∧ t.trace = .halt :: s.trace)

/-- A step ends in the DivideByZero fault exactly when it is DVD of even registers by zero. Derived:
60_exceptions.md section 2 (the spec's decision D23). -/
def Obligations.DivideFaultOnlyFromDvdByZero : Prop :=
  ∀ s t : State, s.run = .ready → step s = .next t →
    ((t.run = .faulted ∧ t.mfr = Config.standard.mfrDivideByZero) ↔
      ∃ rx ry canonical, decode standardOpc s.fetch = .known (.dvd rx ry) canonical ∧
        rx.toNat % 2 = 0 ∧ ry.toNat % 2 = 0 ∧ s.readGpr ry = 0)

/-- An instruction outside the transfer family leaves the PC or advances it by one, and never wraps
it. Derived: 10_state.md section 4, how each instruction leaves PC (the spec's decision D11). -/
def Obligations.OnlyTransfersSetThePc : Prop :=
  ∀ (i : Instr) (s t : State), isTransfer i = false → exec i s = .next t →
    (t.pc = s.pc ∧ (i = .hlt ∨ t.run = .faulted)) ∨
    (s.pc.toNat < 2047 ∧ t.pc.toNat = s.pc.toNat + 1)

/-- At address 2047 every instruction that would advance faults and commits nothing. Derived:
40_execution_cycle.md section 2 (R107, R108; the spec's decision D11); 60_exceptions.md section 5
(R242, R243; the spec's decision D34). -/
def Obligations.NoSuccessorFaultsWithoutEffect : Prop :=
  ∀ (i : Instr) (s : State), setsPc i s = false → isControl i = false → s.pc = 2047 →
    ∃ f, exec i s = .next (raise Config.standard f s) ∧
      (f = .unknownOpcode → (∃ ind a, i = .ldx 0 ind a ∨ i = .stx 0 ind a) ∨
        (∃ rx ry, (i = .mlt rx ry ∨ i = .dvd rx ry) ∧
          (rx.toNat % 2 = 1 ∨ ry.toNat % 2 = 1))) ∧
      (f = .divideByZero → ∃ rx ry, i = .dvd rx ry ∧ s.readGpr ry = 0)

/-- Each addressed instruction faults on its address before any other effect, branch taken or not.
Derived: 20_memory.md section 5 (the spec's decision D20). -/
def Obligations.AddressFaultsBeforeAnyEffect : Prop :=
  ∀ (i : Instr) (s : State) (ix : IxSel) (ind : Bool) (a : Lit5) (f : Fault),
    addressFields i = some (ix, ind, a) → resolve ix ind a s = .error f →
      exec i s = .next (raise Config.standard f s) ∧
      (raise Config.standard f s).mfr = Config.standard.mfrAddressRange

/-- MAR, MBR and IR have no influence on any other state. Derived: 10_state.md section 6 (the spec's
decision D14). -/
def Obligations.BookkeepingRegistersAreNotRead : Prop :=
  ∀ s t : State, step s = .next t →
    ∃ t', step s.withoutLatches = .next t' ∧ t'.withoutLatches = t.withoutLatches

/-- HLT halts with the PC on its word and nothing else written. Derived: 41_control.md, HLT (the
spec's decision D15). The record's form is the model's own (log entry 6). -/
def Obligations.HltHaltsInPlace : Prop :=
  ∀ s : State, exec .hlt s = .next { s with run := .halted, trace := .halt :: s.trace }

/-- TRAP with any code and SETCCE always take the UnknownOpcode fault. Derived: 41_control.md, TRAP
and SETCCE (the spec's decision D17). -/
def Obligations.TrapAndSetcceRaiseUnknownOpcode : Prop :=
  ∀ (s : State) (code : Nibble),
    exec (.trap code) s = .next { s with mfr := Config.standard.mfrUnknownOpcode, run := .faulted } ∧
    exec .setcce s = .next { s with mfr := Config.standard.mfrUnknownOpcode, run := .faulted }

/-- LDR: GPR[r] gets the word at the effective address; its encoding, frame and faults. States R125.
-/
def Obligations.LdrLoadsFromTheEffectiveAddress : Prop :=
  ∀ (r : Reg) (ix : IxSel) (i : Bool) (addr : Lit5) (s : State),
    (encode standardOpc (.ldr r ix i addr)).toNat =
      1 * 1024 + r.toNat * 256 + ix.toNat * 64 + i.toNat * 32 + addr.toNat ∧
    (∀ e, resolve ix i addr s = .ok e → s.pc.toNat < 2047 →
      ∃ t, exec (.ldr r ix i addr) s = .next t ∧ t.readGpr r = s.readMem e.ea ∧
        t.mar = e.ea ∧ t.mbr = s.readMem e.ea ∧ t.pc = s.pc + 1 ∧ RegisterFrame [r] s t) ∧
    (∀ e, resolve ix i addr s = .ok e → s.pc = 2047 →
      exec (.ldr r ix i addr) s = .next (raise Config.standard (.addressOutOfRange 2048) s)) ∧
    (∀ f, resolve ix i addr s = .error f →
      exec (.ldr r ix i addr) s = .next (raise Config.standard f s))

/-- STR: the word at the effective address gets GPR[r]; its encoding, frame and faults. States R126.
-/
def Obligations.StrStoresAtTheEffectiveAddress : Prop :=
  ∀ (r : Reg) (ix : IxSel) (i : Bool) (addr : Lit5) (s : State), s.mem.wf = true →
    (encode standardOpc (.str r ix i addr)).toNat =
      2 * 1024 + r.toNat * 256 + ix.toNat * 64 + i.toNat * 32 + addr.toNat ∧
    (∀ e, resolve ix i addr s = .ok e → s.pc.toNat < 2047 →
      ∃ t, exec (.str r ix i addr) s = .next t ∧ t.readMem e.ea = s.readGpr r ∧
        MemKeptBut e.ea s t ∧ t.mar = e.ea ∧ t.mbr = s.readGpr r ∧ t.pc = s.pc + 1 ∧
        GprsKept [] s t ∧ IxrsKept [] s t ∧ t.cc = s.cc ∧ ControlKept s t ∧ OutputsKept s t) ∧
    (∀ e, resolve ix i addr s = .ok e → s.pc = 2047 →
      exec (.str r ix i addr) s = .next (raise Config.standard (.addressOutOfRange 2048) s)) ∧
    (∀ f, resolve ix i addr s = .error f →
      exec (.str r ix i addr) s = .next (raise Config.standard f s))

/-- LDA: GPR[r] gets the literal plus the index modulo 65536, with no memory access. Derived:
42_load_store.md, LDA (the spec's decision D19). -/
def Obligations.LdaLoadsTheIndexedLiteral : Prop :=
  ∀ (r : Reg) (ix : IxSel) (i : Bool) (addr : Lit5) (s : State), s.pc.toNat < 2047 →
    ∃ t, exec (.lda r ix i addr) s = .next t ∧
      (t.readGpr r).toNat =
        (addr.toNat + (if ix = 0 then 0 else (s.readIxr ix).toNat)) % 65536 ∧
      t.pc = s.pc + 1 ∧ LatchesKept s t ∧ RegisterFrame [r] s t

/-- LDX: IXR[ix] gets the word at the address its old value indexes; ix = 0 is UnknownOpcode.
Derived: 42_load_store.md, LDX (the spec's decisions D16 and D21). -/
def Obligations.LdxLoadsTheIndexRegister : Prop :=
  ∀ (ix : IxSel) (i : Bool) (addr : Lit5) (s : State),
    (ix = 0 → exec (.ldx ix i addr) s = .next (raise Config.standard .unknownOpcode s)) ∧
    ∀ e, ix ≠ 0 → resolve ix i addr s = .ok e → s.pc.toNat < 2047 →
      ∃ t, exec (.ldx ix i addr) s = .next t ∧ t.readIxr ix = s.readMem e.ea ∧
        t.mar = e.ea ∧ t.mbr = s.readMem e.ea ∧ t.pc = s.pc + 1 ∧ IxrsKept [ix] s t ∧
        GprsKept [] s t ∧ MemKept s t ∧ t.cc = s.cc ∧ ControlKept s t ∧ OutputsKept s t

/-- STX: the word at the address IXR[ix] indexes gets IXR[ix]; ix = 0 is UnknownOpcode. Derived:
42_load_store.md, STX (the spec's decisions D16 and D21). -/
def Obligations.StxStoresTheIndexRegister : Prop :=
  ∀ (ix : IxSel) (i : Bool) (addr : Lit5) (s : State), s.mem.wf = true →
    (ix = 0 → exec (.stx ix i addr) s = .next (raise Config.standard .unknownOpcode s)) ∧
    ∀ e, ix ≠ 0 → resolve ix i addr s = .ok e → s.pc.toNat < 2047 →
      ∃ t, exec (.stx ix i addr) s = .next t ∧ t.readMem e.ea = s.readIxr ix ∧
        MemKeptBut e.ea s t ∧ t.mar = e.ea ∧ t.mbr = s.readIxr ix ∧ t.pc = s.pc + 1 ∧
        IxrsKept [] s t ∧ GprsKept [] s t ∧ t.cc = s.cc ∧ ControlKept s t ∧ OutputsKept s t

/-- JZ branches to the effective address exactly when GPR[r] is zero, JNE exactly when it is not.
States R135 and R136. -/
def Obligations.JzJneBranchOnZeroOrNot : Prop :=
  ∀ (r : Reg) (ix : IxSel) (i : Bool) (addr : Lit5) (s : State),
    (encode standardOpc (.jz r ix i addr)).toNat =
      8 * 1024 + r.toNat * 256 + ix.toNat * 64 + i.toNat * 32 + addr.toNat ∧
    (∀ e, resolve ix i addr s = .ok e → s.readGpr r = 0 →
      ∃ t, exec (.jz r ix i addr) s = .next t ∧ t.pc = e.ea ∧
        LatchesPointer e s t ∧ RegisterFrame [] s t) ∧
    (∀ e, resolve ix i addr s = .ok e → s.readGpr r ≠ 0 → s.pc.toNat < 2047 →
      ∃ t, exec (.jz r ix i addr) s = .next t ∧ t.pc = s.pc + 1 ∧
        LatchesPointer e s t ∧ RegisterFrame [] s t) ∧
    (∀ e, resolve ix i addr s = .ok e → s.readGpr r ≠ 0 → s.pc = 2047 →
      exec (.jz r ix i addr) s = .next (raise Config.standard (.addressOutOfRange 2048) s)) ∧
    (∀ f, resolve ix i addr s = .error f →
      exec (.jz r ix i addr) s = .next (raise Config.standard f s)) ∧
    (encode standardOpc (.jne r ix i addr)).toNat =
      9 * 1024 + r.toNat * 256 + ix.toNat * 64 + i.toNat * 32 + addr.toNat ∧
    (∀ e, resolve ix i addr s = .ok e → s.readGpr r ≠ 0 →
      ∃ t, exec (.jne r ix i addr) s = .next t ∧ t.pc = e.ea ∧
        LatchesPointer e s t ∧ RegisterFrame [] s t) ∧
    (∀ e, resolve ix i addr s = .ok e → s.readGpr r = 0 → s.pc.toNat < 2047 →
      ∃ t, exec (.jne r ix i addr) s = .next t ∧ t.pc = s.pc + 1 ∧
        LatchesPointer e s t ∧ RegisterFrame [] s t) ∧
    (∀ e, resolve ix i addr s = .ok e → s.readGpr r = 0 → s.pc = 2047 →
      exec (.jne r ix i addr) s = .next (raise Config.standard (.addressOutOfRange 2048) s)) ∧
    (∀ f, resolve ix i addr s = .error f →
      exec (.jne r ix i addr) s = .next (raise Config.standard f s))

/-- JGE branches exactly when GPR[r] is at most 32767. Derived: 43_transfer.md, JGE (R137; the
spec's decision D9); 60_exceptions.md section 5 (R243; the spec's decision D11). -/
def Obligations.JgeBranchesOnClearSignBit : Prop :=
  ∀ (r : Reg) (ix : IxSel) (i : Bool) (addr : Lit5) (s : State),
    (∀ e, resolve ix i addr s = .ok e → (s.readGpr r).toNat ≤ 32767 →
      ∃ t, exec (.jge r ix i addr) s = .next t ∧ t.pc = e.ea ∧
        LatchesPointer e s t ∧ RegisterFrame [] s t) ∧
    (∀ e, resolve ix i addr s = .ok e → 32767 < (s.readGpr r).toNat → s.pc.toNat < 2047 →
      ∃ t, exec (.jge r ix i addr) s = .next t ∧ t.pc = s.pc + 1 ∧
        LatchesPointer e s t ∧ RegisterFrame [] s t) ∧
    (∀ e, resolve ix i addr s = .ok e → 32767 < (s.readGpr r).toNat → s.pc = 2047 →
      exec (.jge r ix i addr) s = .next (raise Config.standard (.addressOutOfRange 2048) s)) ∧
    (∀ f, resolve ix i addr s = .error f →
      exec (.jge r ix i addr) s = .next (raise Config.standard f s))

/-- JCC branches exactly when the whole of CC equals its selector. Derived: 43_transfer.md, JCC
(R138; the spec's decision D24); 60_exceptions.md section 5 (R243; the spec's decision D11). -/
def Obligations.JccComparesTheWholeConditionCode : Prop :=
  ∀ (r : Reg) (ix : IxSel) (i : Bool) (addr : Lit5) (s : State),
    (∀ e, resolve ix i addr s = .ok e → s.cc.toNat = r.toNat →
      ∃ t, exec (.jcc r ix i addr) s = .next t ∧ t.pc = e.ea ∧
        LatchesPointer e s t ∧ RegisterFrame [] s t) ∧
    (∀ e, resolve ix i addr s = .ok e → s.cc.toNat ≠ r.toNat → s.pc.toNat < 2047 →
      ∃ t, exec (.jcc r ix i addr) s = .next t ∧ t.pc = s.pc + 1 ∧
        LatchesPointer e s t ∧ RegisterFrame [] s t) ∧
    (∀ e, resolve ix i addr s = .ok e → s.cc.toNat ≠ r.toNat → s.pc = 2047 →
      exec (.jcc r ix i addr) s = .next (raise Config.standard (.addressOutOfRange 2048) s)) ∧
    (∀ f, resolve ix i addr s = .error f →
      exec (.jcc r ix i addr) s = .next (raise Config.standard f s))

/-- JMA sets the PC to the effective address. Derived: 43_transfer.md, JMA (R139);
40_execution_cycle.md section 3, the pointer bookkeeping (R110; the spec's decision D14). What MAR
and MBR hold is the spec's decision D14 (log entry 13). -/
def Obligations.JmaJumps : Prop :=
  ∀ (ix : IxSel) (i : Bool) (addr : Lit5) (s : State),
    (encode standardOpc (.jma ix i addr)).toNat =
      11 * 1024 + ix.toNat * 64 + i.toNat * 32 + addr.toNat ∧
    (∀ junk : BitVec 2, ∃ canonical, decode standardOpc
      (encode standardOpc (.jma ix i addr) ||| junk.setWidth 16 <<< 8) =
        .known (.jma ix i addr) canonical) ∧
    (∀ e, resolve ix i addr s = .ok e →
      ∃ t, exec (.jma ix i addr) s = .next t ∧ t.pc = e.ea ∧ LatchesPointer e s t ∧
        RegisterFrame [] s t) ∧
    (∀ f, resolve ix i addr s = .error f →
      exec (.jma ix i addr) s = .next (raise Config.standard f s))

/-- JSR stores PC + 1, up to 2048, in GPR[3] and jumps. Derived: 43_transfer.md, JSR (the spec's
decision D36). -/
def Obligations.JsrLinksAndJumps : Prop :=
  ∀ (ix : IxSel) (i : Bool) (addr : Lit5) (s : State) (e : Resolved),
    resolve ix i addr s = .ok e →
      ∃ t, exec (.jsr ix i addr) s = .next t ∧ (t.readGpr 3).toNat = s.pc.toNat + 1 ∧
        t.pc = e.ea ∧ LatchesPointer e s t ∧ RegisterFrame [3] s t

/-- RFS puts its literal in GPR[0] and GPR[3] in the PC, or faults if GPR[3] exceeds 2047. Derived:
43_transfer.md, RFS (the spec's decision D36). -/
def Obligations.RfsReturnsThroughR3 : Prop :=
  ∀ (addr : Lit5) (s : State),
    ((s.readGpr 3).toNat ≤ 2047 →
      ∃ t, exec (.rfs addr) s = .next t ∧ (t.readGpr 0).toNat = addr.toNat ∧
        t.pc.toNat = (s.readGpr 3).toNat ∧ LatchesKept s t ∧ RegisterFrame [0] s t) ∧
    (2047 < (s.readGpr 3).toNat → exec (.rfs addr) s =
      .next (raise Config.standard (.addressOutOfRange (s.readGpr 3).toNat) s))

/-- SOB decrements GPR[r] modulo 65536 and branches exactly when the result is 1 to 32767. Derived:
43_transfer.md, SOB (the spec's decisions D9 and D36). -/
def Obligations.SobDecrementsAndLoops : Prop :=
  ∀ (r : Reg) (ix : IxSel) (i : Bool) (addr : Lit5) (s : State) (e : Resolved) (v : Nat),
    resolve ix i addr s = .ok e → v = ((s.readGpr r).toNat + 65535) % 65536 →
      ((1 ≤ v ∧ v ≤ 32767) →
        ∃ t, exec (.sob r ix i addr) s = .next t ∧ (t.readGpr r).toNat = v ∧ t.pc = e.ea ∧
          LatchesPointer e s t ∧ RegisterFrame [r] s t) ∧
      (¬ (1 ≤ v ∧ v ≤ 32767) → s.pc.toNat < 2047 →
        ∃ t, exec (.sob r ix i addr) s = .next t ∧ (t.readGpr r).toNat = v ∧
          t.pc = s.pc + 1 ∧ LatchesPointer e s t ∧ RegisterFrame [r] s t) ∧
      (¬ (1 ≤ v ∧ v ≤ 32767) → s.pc = 2047 → exec (.sob r ix i addr) s =
        .next (raise Config.standard (.addressOutOfRange 2048) s))

/-- AMR and SMR: GPR[r] gets the sum or difference with the word at the effective address, modulo
65536. States R151 and R152. -/
def Obligations.AmrSmrAddAndSubtractMemory : Prop :=
  ∀ (r : Reg) (ix : IxSel) (i : Bool) (addr : Lit5) (s : State),
    (encode standardOpc (.amr r ix i addr)).toNat =
      4 * 1024 + r.toNat * 256 + ix.toNat * 64 + i.toNat * 32 + addr.toNat ∧
    (∀ e, resolve ix i addr s = .ok e → s.pc.toNat < 2047 →
      ∃ t, exec (.amr r ix i addr) s = .next t ∧
        (t.readGpr r).toNat = ((s.readGpr r).toNat + (s.readMem e.ea).toNat) % 65536 ∧
        t.mar = e.ea ∧ t.mbr = s.readMem e.ea ∧ t.pc = s.pc + 1 ∧ RegisterFrame [r] s t) ∧
    (∀ e, resolve ix i addr s = .ok e → s.pc = 2047 →
      exec (.amr r ix i addr) s = .next (raise Config.standard (.addressOutOfRange 2048) s)) ∧
    (∀ f, resolve ix i addr s = .error f →
      exec (.amr r ix i addr) s = .next (raise Config.standard f s)) ∧
    (encode standardOpc (.smr r ix i addr)).toNat =
      5 * 1024 + r.toNat * 256 + ix.toNat * 64 + i.toNat * 32 + addr.toNat ∧
    (∀ e, resolve ix i addr s = .ok e → s.pc.toNat < 2047 →
      ∃ t, exec (.smr r ix i addr) s = .next t ∧
        (t.readGpr r).toNat = ((s.readGpr r).toNat + (65536 - (s.readMem e.ea).toNat)) % 65536 ∧
        t.mar = e.ea ∧ t.mbr = s.readMem e.ea ∧ t.pc = s.pc + 1 ∧ RegisterFrame [r] s t) ∧
    (∀ e, resolve ix i addr s = .ok e → s.pc = 2047 →
      exec (.smr r ix i addr) s = .next (raise Config.standard (.addressOutOfRange 2048) s)) ∧
    (∀ f, resolve ix i addr s = .error f →
      exec (.smr r ix i addr) s = .next (raise Config.standard f s))

/-- AIR and SIR: GPR[r] gets the sum or difference with the immediate 0 to 31, modulo 65536. States
R153 and R154. -/
def Obligations.AirSirAddAndSubtractTheImmediate : Prop :=
  ∀ (r : Reg) (value : Lit5) (s : State),
    (encode standardOpc (.air r value)).toNat = 6 * 1024 + r.toNat * 256 + value.toNat ∧
    (∀ junk : BitVec 3, ∃ canonical, decode standardOpc
      (encode standardOpc (.air r value) ||| junk.setWidth 16 <<< 5) =
        .known (.air r value) canonical) ∧
    (s.pc.toNat < 2047 →
      ∃ t, exec (.air r value) s = .next t ∧
        (t.readGpr r).toNat = ((s.readGpr r).toNat + value.toNat) % 65536 ∧
        t.pc = s.pc + 1 ∧ LatchesKept s t ∧ RegisterFrame [r] s t) ∧
    (s.pc = 2047 →
      exec (.air r value) s = .next (raise Config.standard (.addressOutOfRange 2048) s)) ∧
    (encode standardOpc (.sir r value)).toNat = 7 * 1024 + r.toNat * 256 + value.toNat ∧
    (∀ junk : BitVec 3, ∃ canonical, decode standardOpc
      (encode standardOpc (.sir r value) ||| junk.setWidth 16 <<< 5) =
        .known (.sir r value) canonical) ∧
    (s.pc.toNat < 2047 →
      ∃ t, exec (.sir r value) s = .next t ∧
        (t.readGpr r).toNat = ((s.readGpr r).toNat + (65536 - value.toNat)) % 65536 ∧
        t.pc = s.pc + 1 ∧ LatchesKept s t ∧ RegisterFrame [r] s t) ∧
    (s.pc = 2047 →
      exec (.sir r value) s = .next (raise Config.standard (.addressOutOfRange 2048) s))

/-- MLT: the pair GPR[rx], GPR[rx+1] holds the exact signed 32-bit product, high half first.
Derived: 44_arithmetic.md, MLT (the spec's decisions D16 and D22). -/
def Obligations.MltWritesTheSignedProduct : Prop :=
  ∀ (rx ry : Reg) (s : State),
    (rx.toNat % 2 = 0 → ry.toNat % 2 = 0 → s.pc.toNat < 2047 →
      ∃ t, exec (.mlt rx ry) s = .next t ∧
        (t.readGpr rx ++ t.readGpr (rx + 1)).toInt =
          (s.readGpr rx).toInt * (s.readGpr ry).toInt ∧
        t.pc = s.pc + 1 ∧ LatchesKept s t ∧ RegisterFrame [rx, rx + 1] s t) ∧
    ((rx.toNat % 2 = 1 ∨ ry.toNat % 2 = 1) →
      exec (.mlt rx ry) s = .next (raise Config.standard .unknownOpcode s))

/-- DVD: quotient in GPR[rx], remainder in GPR[rx+1], truncating; -32768 by -1 wraps; its three
faults. Derived: 44_arithmetic.md, DVD (the spec's decisions D16 and D23); 60_exceptions.md section
5 (the spec's decision D34). -/
def Obligations.DvdWritesQuotientAndRemainder : Prop :=
  ∀ (rx ry : Reg) (s : State),
    (rx.toNat % 2 = 0 → ry.toNat % 2 = 0 → s.readGpr ry ≠ 0 → s.pc.toNat < 2047 →
      ∃ t, exec (.dvd rx ry) s = .next t ∧
        (¬ (s.readGpr rx = 0x8000 ∧ s.readGpr ry = 0xFFFF) →
          (t.readGpr rx).toInt * (s.readGpr ry).toInt + (t.readGpr (rx + 1)).toInt =
            (s.readGpr rx).toInt ∧
          (t.readGpr (rx + 1)).toInt.natAbs < (s.readGpr ry).toInt.natAbs ∧
          (t.readGpr (rx + 1) = 0 ∨
            ((t.readGpr (rx + 1)).toInt < 0 ↔ (s.readGpr rx).toInt < 0))) ∧
        (s.readGpr rx = 0x8000 → s.readGpr ry = 0xFFFF →
          t.readGpr rx = 0x8000 ∧ t.readGpr (rx + 1) = 0) ∧
        t.pc = s.pc + 1 ∧ LatchesKept s t ∧ RegisterFrame [rx, rx + 1] s t) ∧
    ((rx.toNat % 2 = 1 ∨ ry.toNat % 2 = 1) →
      exec (.dvd rx ry) s = .next (raise Config.standard .unknownOpcode s)) ∧
    (rx.toNat % 2 = 0 → ry.toNat % 2 = 0 → s.readGpr ry = 0 →
      exec (.dvd rx ry) s = .next (raise Config.standard .divideByZero s)) ∧
    (rx.toNat % 2 = 0 → ry.toNat % 2 = 0 → s.readGpr ry ≠ 0 → s.pc = 2047 →
      exec (.dvd rx ry) s = .next (raise Config.standard (.addressOutOfRange 2048) s))

/-- TRR sets CC bit 3 exactly when the registers are equal and keeps the other bits. Derived:
45_logical.md, TRR (the spec's decision D24). -/
def Obligations.TrrRecordsEqualityInBitThree : Prop :=
  ∀ (rx ry : Reg) (s : State), s.pc.toNat < 2047 →
    ∃ t, exec (.trr rx ry) s = .next t ∧
      (t.cc.getLsbD 3 = true ↔ s.readGpr rx = s.readGpr ry) ∧
      (∀ k, k < 3 → t.cc.getLsbD k = s.cc.getLsbD k) ∧
      t.pc = s.pc + 1 ∧ LatchesKept s t ∧ GprsKept [] s t ∧ IxrsKept [] s t ∧ MemKept s t ∧
      ControlKept s t ∧ OutputsKept s t

/-- AND and ORR write the bitwise result of the two registers into GPR[rx]. Derived: 45_logical.md,
AND and ORR (the spec's decision D25). -/
def Obligations.AndOrrCombineBitwise : Prop :=
  ∀ (rx ry : Reg) (s : State), s.pc.toNat < 2047 →
    (∃ t, exec (.and rx ry) s = .next t ∧
      (∀ k, k < 16 → (t.readGpr rx).getLsbD k =
        ((s.readGpr rx).getLsbD k && (s.readGpr ry).getLsbD k)) ∧
      t.pc = s.pc + 1 ∧ LatchesKept s t ∧ RegisterFrame [rx] s t) ∧
    (∃ t, exec (.orr rx ry) s = .next t ∧
      (∀ k, k < 16 → (t.readGpr rx).getLsbD k =
        ((s.readGpr rx).getLsbD k || (s.readGpr ry).getLsbD k)) ∧
      t.pc = s.pc + 1 ∧ LatchesKept s t ∧ RegisterFrame [rx] s t)

/-- NOT: GPR[r] becomes 65535 minus its old value. States R169. -/
def Obligations.NotComplementsTheRegister : Prop :=
  ∀ (r : Reg) (s : State),
    (encode standardOpc (.not r)).toNat = 21 * 1024 + r.toNat * 256 ∧
    (∀ junk : BitVec 8, ∃ canonical, decode standardOpc
      (encode standardOpc (.not r) ||| junk.setWidth 16) = .known (.not r) canonical) ∧
    (s.pc.toNat < 2047 →
      ∃ t, exec (.not r) s = .next t ∧
        (t.readGpr r).toNat = 65535 - (s.readGpr r).toNat ∧
        t.pc = s.pc + 1 ∧ LatchesKept s t ∧ RegisterFrame [r] s t ∧
        ∀ u, exec (.not r) t = .next u → u.run = s.run → s.run ≠ .faulted →
          u.readGpr r = s.readGpr r) ∧
    (s.pc = 2047 →
      exec (.not r) s = .next (raise Config.standard (.addressOutOfRange 2048) s))

/-- SRC moves every bit by the count; zeros enter, or copies of bit 15 in a right arithmetic shift.
Derived: 46_shift_rotate.md, SRC (the spec's decision D26). -/
def Obligations.SrcShiftsBits : Prop :=
  ∀ (r : Reg) (lr al : Bool) (count : Nibble) (s : State), s.pc.toNat < 2047 →
    ∃ t, exec (.src r lr al count) s = .next t ∧
      (∀ j, j < 16 → (t.readGpr r).getLsbD j =
        if lr then decide (count.toNat ≤ j) && (s.readGpr r).getLsbD (j - count.toNat)
        else if al then (s.readGpr r).getLsbD (j + count.toNat)
        else (s.readGpr r).getLsbD (min (j + count.toNat) 15)) ∧
      t.pc = s.pc + 1 ∧ LatchesKept s t ∧ RegisterFrame [r] s t

/-- RRC moves every bit around the 16-bit register by the count; the A/L bit plays no part. Derived:
46_shift_rotate.md, RRC (the spec's decision D26). -/
def Obligations.RrcRotatesBits : Prop :=
  ∀ (r : Reg) (lr al : Bool) (count : Nibble) (s : State), s.pc.toNat < 2047 →
    ∃ t, exec (.rrc r lr al count) s = .next t ∧
      (∀ j, j < 16 → (t.readGpr r).getLsbD j =
        if lr then (s.readGpr r).getLsbD ((j + 16 - count.toNat) % 16)
        else (s.readGpr r).getLsbD ((j + count.toNat) % 16)) ∧
      t.pc = s.pc + 1 ∧ LatchesKept s t ∧ RegisterFrame [r] s t

/-- IN and CHK put the device's answer, whatever it is, in GPR[r] and log the one port operation.
Derived: 47_io.md, IN and CHK (the spec's decision D27). The answers are free values and the port
history is a field of the model's own (log entries 4 and 5). -/
def Obligations.InAndChkTakeAnyAnswer : Prop :=
  ∀ (r : Reg) (d : Lit5) (s : State),
    (s.pc.toNat < 2047 →
      (∃ t, exec (.inp r d) s = .next t ∧ t.readGpr r = Config.freePort .read s.portLog d ∧
        t.portLog = .answered .read d (t.readGpr r) :: s.portLog ∧
        t.pc = s.pc + 1 ∧ LatchesKept s t ∧ GprsKept [r] s t ∧ IxrsKept [] s t ∧ MemKept s t ∧
        t.cc = s.cc ∧ ControlKept s t ∧ t.trace = s.trace) ∧
      (∃ t, exec (.chk r d) s = .next t ∧ t.readGpr r = Config.freePort .status s.portLog d ∧
        t.portLog = .answered .status d (t.readGpr r) :: s.portLog ∧
        t.pc = s.pc + 1 ∧ LatchesKept s t ∧ GprsKept [r] s t ∧ IxrsKept [] s t ∧ MemKept s t ∧
        t.cc = s.cc ∧ ControlKept s t ∧ t.trace = s.trace) ∧
      ∀ c : Config, ∃ t u, execIn c (.inp r d) s = .next t ∧
        t.readGpr r = c.port .read s.portLog d ∧
        t.portLog = .answered .read d (c.port .read s.portLog d) :: s.portLog ∧
        execIn c (.chk r d) s = .next u ∧ u.readGpr r = c.port .status s.portLog d ∧
        u.portLog = .answered .status d (c.port .status s.portLog d) :: s.portLog) ∧
    (s.pc = 2047 →
      exec (.inp r d) s = .next (raise Config.standard (.addressOutOfRange 2048) s) ∧
      exec (.chk r d) s = .next (raise Config.standard (.addressOutOfRange 2048) s))

/-- OUT appends the device number and GPR[r] to the output history and changes no register or
memory. Derived: 47_io.md, OUT (the spec's decision D27). The port history is a field of the model's
own (log entry 5). -/
def Obligations.OutHandsOverTheRegister : Prop :=
  ∀ (r : Reg) (d : Lit5) (s : State),
    (s.pc.toNat < 2047 →
      ∃ t, exec (.out r d) s = .next t ∧
        outputHistory t.portLog = outputHistory s.portLog ++ [(d, s.readGpr r)] ∧
        t.portLog = .written d (s.readGpr r) :: s.portLog ∧
        t.pc = s.pc + 1 ∧ LatchesKept s t ∧ GprsKept [] s t ∧ IxrsKept [] s t ∧ MemKept s t ∧
        t.cc = s.cc ∧ ControlKept s t ∧ t.trace = s.trace) ∧
    (s.pc = 2047 →
      exec (.out r d) s = .next (raise Config.standard (.addressOutOfRange 2048) s))

/-- Each of the seven placeholders only advances the PC, whatever its fields. Derived:
48_float_vector_stubs.md (the spec's decision D18). -/
def Obligations.PlaceholdersOnlyAdvance : Prop :=
  ∀ (r : Reg) (ix : IxSel) (i : Bool) (addr : Lit5) (s : State) (p : Instr),
    p ∈ [Instr.fadd r ix i addr, .fsub r ix i addr, .vadd r ix i addr, .vsub r ix i addr,
      .cnvrt r ix i addr, .ldfr r ix i addr, .stfr r ix i addr] →
      (s.pc.toNat < 2047 → exec p s = .next { s with pc := s.pc + 1 }) ∧
      (s.pc = 2047 → exec p s = .next { s with mfr := Config.standard.mfrAddressRange, run := .faulted })

/-- reset, in any state, makes every register and memory word 0, RUN Ready and clears the stop
latch. Derived: 70_reset_and_hazards.md section 1 (the spec's decisions D7 and D8). -/
def Obligations.ResetReturnsToTheSessionStart : Prop :=
  ∀ s : State, ∃ t, perform .reset s = .next t ∧
    (∀ u, u = t ∨ u = State.reset →
      (∀ r, u.readGpr r = 0) ∧ (∀ x, u.readIxr x = 0) ∧ (∀ a, u.readMem a = 0) ∧
      u.pc = 0 ∧ u.mar = 0 ∧ u.mbr = 0 ∧ u.ir = 0 ∧ u.cc = 0 ∧ u.mfr = 0 ∧
      u.stopReq = false ∧ u.run = .ready) ∧
    t.lc = s.lc ∧ ∃ v, step t = .next v ∧ v.run = .halted

/-- loadProgram writes its pairs in order with the last one winning, or nothing at all. Derived:
50_interfaces.md section 1, loadProgram (the spec's decision D8). -/
def Obligations.LoadProgramWritesInOrder : Prop :=
  ∀ (pairs : List (Nat × Nat)) (s : State), s.mem.wf = true →
    ((∃ p ∈ pairs, 2047 < p.1 ∨ 65535 < p.2) → perform (.loadProgram pairs) s = .next s) ∧
    ((∀ p ∈ pairs, p.1 ≤ 2047 ∧ p.2 ≤ 65535) →
      ∃ t, perform (.loadProgram pairs) s = .next t ∧ t = { s with mem := t.mem } ∧
        ∀ a : Addr, (t.readMem a).toNat =
          ((pairs.reverse.find? fun p => p.1 == a.toNat).map Prod.snd).getD (s.readMem a).toNat)

/-- run takes a pending stop before the next step; stop only sets the latch; a terminal state stays.
Derived: 60_exceptions.md section 4 (the spec's decision D29); 40_execution_cycle.md section 4 (the
spec's decision D28). The list of arrivals and the record's form are the model's own (log entries 6
and 19). -/
def Obligations.RunSamplesTheStopBetweenSteps : Prop :=
  ∀ (s : State) (arrives : Bool) (rest : List Bool),
    perform .stop s = .next { s with stopReq := true } ∧
    (s.run = .ready → s.stopReq = true → s.runCommand (arrives :: rest) =
      .next { s with stopReq := false, run := .halted, trace := .halt :: s.trace }) ∧
    (∀ t, s.run = .ready → s.stopReq = false → step s = .next t →
      s.runCommand (arrives :: rest) =
        (if arrives then { t with stopReq := true } else t).runCommand rest) ∧
    (∀ t, step s = .next t → t.stopReq = s.stopReq) ∧
    (s.run ≠ .ready → (∀ c : Config, stepIn c s = .next s) ∧ step s = .next s ∧
      s.runCommand (arrives :: rest) = .next s)
end

