-- ==== Sys2Proof/Laws/Assembler.lean ====
section
/-! SUPPORT. What the shared functions of the encoder and its lines can answer. -/

namespace Sys2Proof.Machine

/-- What `emit` answers: the word at the old counter, which advances, or an error that leaves it. -/
theorem emit_cases (lc : Nat) (x : Except EncodeError Word) :
    (∃ w, x = .ok w ∧ lc ≤ maxAddr ∧ emit lc x = (lc + 1, .ok (some (lc, w)))) ∨
    (∃ w, x = .ok w ∧ maxAddr < lc ∧ emit lc x = (lc, .error .rangeError)) ∨
    (∃ e, x = .error e ∧ emit lc x = (lc, .error e)) := by
  cases x with
  | error e => exact .inr (.inr ⟨e, rfl, rfl⟩)
  | ok w =>
    by_cases h : lc ≤ maxAddr
    · exact .inl ⟨w, rfl, h, by simp only [emit, if_pos h]⟩
    · exact .inr (.inl ⟨w, rfl, Nat.lt_of_not_le h, by simp only [emit, if_neg h]⟩)

/-- The range check in full: no more operands than ranges, and each operand in its own (R82). -/
theorem operandsInRange_iff : ∀ (ops : List Nat) (ranges : List (Nat × Nat)),
    operandsInRange ops ranges = true ↔ ops.length ≤ ranges.length ∧
      ∀ k v lo hi : Nat, ops[k]? = some v → ranges[k]? = some (lo, hi) → lo ≤ v ∧ v ≤ hi
  | [], ranges => by simp [operandsInRange]
  | v :: vs, [] => by simp [operandsInRange]
  | v :: vs, (lo, hi) :: rs => by
    simp only [operandsInRange, Bool.and_eq_true, decide_eq_true_eq, operandsInRange_iff vs rs]
    constructor
    · rintro ⟨⟨h1, h2⟩, h3, h4⟩
      refine ⟨by simpa using h3, fun k v' lo' hi' a b => ?_⟩
      cases k with
      | zero =>
        simp only [List.getElem?_cons_zero, Option.some.injEq, Prod.mk.injEq] at a b
        omega
      | succ k => exact h4 k v' lo' hi' (by simpa using a) (by simpa using b)
    · rintro ⟨h1, h2⟩
      exact ⟨h2 0 v lo hi rfl rfl, by simpa using h1, fun k v' lo' hi' a b =>
        h2 (k + 1) v' lo' hi' (by simpa using a) (by simpa using b)⟩

/-- A spelling that is found is the mnemonic's own (R80). -/
theorem lookupName_some {name : String} {m : Mnemonic} (h : lookupName name = some m) :
    m.name = name := by
  simpa using List.find?_some h

end Sys2Proof.Machine
end

