-- ==== Sys2Proof/Laws/State.lean ====
section
/-! SUPPORT. One lemma per field per update of the state, and the reads through the updates that do
not touch them, so that no proof unfolds a record update. -/

namespace Sys2Proof.Machine

/-! ### `State.writeGpr` -/

section
variable (s : State) (r : Reg) (v : Word)

@[simp] theorem State.writeGpr_gpr : (s.writeGpr r v).gpr = s.gpr.set r.toNat v := rfl
@[simp] theorem State.writeGpr_ixr : (s.writeGpr r v).ixr = s.ixr := rfl
@[simp] theorem State.writeGpr_pc : (s.writeGpr r v).pc = s.pc := rfl
@[simp] theorem State.writeGpr_mar : (s.writeGpr r v).mar = s.mar := rfl
@[simp] theorem State.writeGpr_mbr : (s.writeGpr r v).mbr = s.mbr := rfl
@[simp] theorem State.writeGpr_ir : (s.writeGpr r v).ir = s.ir := rfl
@[simp] theorem State.writeGpr_cc : (s.writeGpr r v).cc = s.cc := rfl
@[simp] theorem State.writeGpr_mfr : (s.writeGpr r v).mfr = s.mfr := rfl
@[simp] theorem State.writeGpr_run : (s.writeGpr r v).run = s.run := rfl
@[simp] theorem State.writeGpr_mem : (s.writeGpr r v).mem = s.mem := rfl
@[simp] theorem State.writeGpr_stopReq : (s.writeGpr r v).stopReq = s.stopReq := rfl
@[simp] theorem State.writeGpr_lc : (s.writeGpr r v).lc = s.lc := rfl
@[simp] theorem State.writeGpr_portLog : (s.writeGpr r v).portLog = s.portLog := rfl
@[simp] theorem State.writeGpr_trace : (s.writeGpr r v).trace = s.trace := rfl
@[simp] theorem State.readIxr_writeGpr (y : IxSel) :
    (s.writeGpr r v).readIxr y = s.readIxr y := rfl
@[simp] theorem State.readMem_writeGpr (b : Addr) :
    (s.writeGpr r v).readMem b = s.readMem b := rfl

end

/-! ### `State.writeIxr` -/

section
variable (s : State) (x : IxSel) (v : Word)

@[simp] theorem State.writeIxr_gpr : (s.writeIxr x v).gpr = s.gpr := rfl
@[simp] theorem State.writeIxr_pc : (s.writeIxr x v).pc = s.pc := rfl
@[simp] theorem State.writeIxr_mar : (s.writeIxr x v).mar = s.mar := rfl
@[simp] theorem State.writeIxr_mbr : (s.writeIxr x v).mbr = s.mbr := rfl
@[simp] theorem State.writeIxr_ir : (s.writeIxr x v).ir = s.ir := rfl
@[simp] theorem State.writeIxr_cc : (s.writeIxr x v).cc = s.cc := rfl
@[simp] theorem State.writeIxr_mfr : (s.writeIxr x v).mfr = s.mfr := rfl
@[simp] theorem State.writeIxr_run : (s.writeIxr x v).run = s.run := rfl
@[simp] theorem State.writeIxr_mem : (s.writeIxr x v).mem = s.mem := rfl
@[simp] theorem State.writeIxr_stopReq : (s.writeIxr x v).stopReq = s.stopReq := rfl
@[simp] theorem State.writeIxr_lc : (s.writeIxr x v).lc = s.lc := rfl
@[simp] theorem State.writeIxr_portLog : (s.writeIxr x v).portLog = s.portLog := rfl
@[simp] theorem State.writeIxr_trace : (s.writeIxr x v).trace = s.trace := rfl
@[simp] theorem State.readGpr_writeIxr (q : Reg) :
    (s.writeIxr x v).readGpr q = s.readGpr q := rfl
@[simp] theorem State.readMem_writeIxr (b : Addr) :
    (s.writeIxr x v).readMem b = s.readMem b := rfl

end

/-! ### `State.writeMem` -/

section
variable (s : State) (a : Addr) (v : Word)

@[simp] theorem State.writeMem_gpr : (s.writeMem a v).gpr = s.gpr := rfl
@[simp] theorem State.writeMem_ixr : (s.writeMem a v).ixr = s.ixr := rfl
@[simp] theorem State.writeMem_pc : (s.writeMem a v).pc = s.pc := rfl
@[simp] theorem State.writeMem_mar : (s.writeMem a v).mar = s.mar := rfl
@[simp] theorem State.writeMem_mbr : (s.writeMem a v).mbr = s.mbr := rfl
@[simp] theorem State.writeMem_ir : (s.writeMem a v).ir = s.ir := rfl
@[simp] theorem State.writeMem_cc : (s.writeMem a v).cc = s.cc := rfl
@[simp] theorem State.writeMem_mfr : (s.writeMem a v).mfr = s.mfr := rfl
@[simp] theorem State.writeMem_run : (s.writeMem a v).run = s.run := rfl
@[simp] theorem State.writeMem_mem : (s.writeMem a v).mem = s.mem.write a.toNat v := rfl
@[simp] theorem State.writeMem_stopReq : (s.writeMem a v).stopReq = s.stopReq := rfl
@[simp] theorem State.writeMem_lc : (s.writeMem a v).lc = s.lc := rfl
@[simp] theorem State.writeMem_portLog : (s.writeMem a v).portLog = s.portLog := rfl
@[simp] theorem State.writeMem_trace : (s.writeMem a v).trace = s.trace := rfl
@[simp] theorem State.readGpr_writeMem (q : Reg) :
    (s.writeMem a v).readGpr q = s.readGpr q := rfl
@[simp] theorem State.readIxr_writeMem (y : IxSel) :
    (s.writeMem a v).readIxr y = s.readIxr y := rfl

end

/-! ### `State.setPc` -/

section
variable (s : State) (a : Addr)

@[simp] theorem State.setPc_gpr : (s.setPc a).gpr = s.gpr := rfl
@[simp] theorem State.setPc_ixr : (s.setPc a).ixr = s.ixr := rfl
@[simp] theorem State.setPc_pc : (s.setPc a).pc = a := rfl
@[simp] theorem State.setPc_mar : (s.setPc a).mar = s.mar := rfl
@[simp] theorem State.setPc_mbr : (s.setPc a).mbr = s.mbr := rfl
@[simp] theorem State.setPc_ir : (s.setPc a).ir = s.ir := rfl
@[simp] theorem State.setPc_cc : (s.setPc a).cc = s.cc := rfl
@[simp] theorem State.setPc_mfr : (s.setPc a).mfr = s.mfr := rfl
@[simp] theorem State.setPc_run : (s.setPc a).run = s.run := rfl
@[simp] theorem State.setPc_mem : (s.setPc a).mem = s.mem := rfl
@[simp] theorem State.setPc_stopReq : (s.setPc a).stopReq = s.stopReq := rfl
@[simp] theorem State.setPc_lc : (s.setPc a).lc = s.lc := rfl
@[simp] theorem State.setPc_portLog : (s.setPc a).portLog = s.portLog := rfl
@[simp] theorem State.setPc_trace : (s.setPc a).trace = s.trace := rfl
@[simp] theorem State.readGpr_setPc (q : Reg) :
    (s.setPc a).readGpr q = s.readGpr q := rfl
@[simp] theorem State.readIxr_setPc (y : IxSel) :
    (s.setPc a).readIxr y = s.readIxr y := rfl
@[simp] theorem State.readMem_setPc (b : Addr) :
    (s.setPc a).readMem b = s.readMem b := rfl

end

/-! ### `State.setCc` -/

section
variable (s : State) (v : Nibble)

@[simp] theorem State.setCc_gpr : (s.setCc v).gpr = s.gpr := rfl
@[simp] theorem State.setCc_ixr : (s.setCc v).ixr = s.ixr := rfl
@[simp] theorem State.setCc_pc : (s.setCc v).pc = s.pc := rfl
@[simp] theorem State.setCc_mar : (s.setCc v).mar = s.mar := rfl
@[simp] theorem State.setCc_mbr : (s.setCc v).mbr = s.mbr := rfl
@[simp] theorem State.setCc_ir : (s.setCc v).ir = s.ir := rfl
@[simp] theorem State.setCc_cc : (s.setCc v).cc = v := rfl
@[simp] theorem State.setCc_mfr : (s.setCc v).mfr = s.mfr := rfl
@[simp] theorem State.setCc_run : (s.setCc v).run = s.run := rfl
@[simp] theorem State.setCc_mem : (s.setCc v).mem = s.mem := rfl
@[simp] theorem State.setCc_stopReq : (s.setCc v).stopReq = s.stopReq := rfl
@[simp] theorem State.setCc_lc : (s.setCc v).lc = s.lc := rfl
@[simp] theorem State.setCc_portLog : (s.setCc v).portLog = s.portLog := rfl
@[simp] theorem State.setCc_trace : (s.setCc v).trace = s.trace := rfl
@[simp] theorem State.readGpr_setCc (q : Reg) :
    (s.setCc v).readGpr q = s.readGpr q := rfl
@[simp] theorem State.readIxr_setCc (y : IxSel) :
    (s.setCc v).readIxr y = s.readIxr y := rfl
@[simp] theorem State.readMem_setCc (b : Addr) :
    (s.setCc v).readMem b = s.readMem b := rfl

end

/-! ### `State.latchAccess` -/

section
variable (s : State) (a : Addr) (v : Word)

@[simp] theorem State.latchAccess_gpr : (s.latchAccess a v).gpr = s.gpr := rfl
@[simp] theorem State.latchAccess_ixr : (s.latchAccess a v).ixr = s.ixr := rfl
@[simp] theorem State.latchAccess_pc : (s.latchAccess a v).pc = s.pc := rfl
@[simp] theorem State.latchAccess_mar : (s.latchAccess a v).mar = a := rfl
@[simp] theorem State.latchAccess_mbr : (s.latchAccess a v).mbr = v := rfl
@[simp] theorem State.latchAccess_ir : (s.latchAccess a v).ir = s.ir := rfl
@[simp] theorem State.latchAccess_cc : (s.latchAccess a v).cc = s.cc := rfl
@[simp] theorem State.latchAccess_mfr : (s.latchAccess a v).mfr = s.mfr := rfl
@[simp] theorem State.latchAccess_run : (s.latchAccess a v).run = s.run := rfl
@[simp] theorem State.latchAccess_mem : (s.latchAccess a v).mem = s.mem := rfl
@[simp] theorem State.latchAccess_stopReq : (s.latchAccess a v).stopReq = s.stopReq := rfl
@[simp] theorem State.latchAccess_lc : (s.latchAccess a v).lc = s.lc := rfl
@[simp] theorem State.latchAccess_portLog : (s.latchAccess a v).portLog = s.portLog := rfl
@[simp] theorem State.latchAccess_trace : (s.latchAccess a v).trace = s.trace := rfl
@[simp] theorem State.readGpr_latchAccess (q : Reg) :
    (s.latchAccess a v).readGpr q = s.readGpr q := rfl
@[simp] theorem State.readIxr_latchAccess (y : IxSel) :
    (s.latchAccess a v).readIxr y = s.readIxr y := rfl
@[simp] theorem State.readMem_latchAccess (b : Addr) :
    (s.latchAccess a v).readMem b = s.readMem b := rfl

end

/-! ### `State.latchFetch` -/

section
variable (s : State) (w : Word)

@[simp] theorem State.latchFetch_gpr : (s.latchFetch w).gpr = s.gpr := rfl
@[simp] theorem State.latchFetch_ixr : (s.latchFetch w).ixr = s.ixr := rfl
@[simp] theorem State.latchFetch_pc : (s.latchFetch w).pc = s.pc := rfl
@[simp] theorem State.latchFetch_mar : (s.latchFetch w).mar = s.pc := rfl
@[simp] theorem State.latchFetch_mbr : (s.latchFetch w).mbr = w := rfl
@[simp] theorem State.latchFetch_ir : (s.latchFetch w).ir = w := rfl
@[simp] theorem State.latchFetch_cc : (s.latchFetch w).cc = s.cc := rfl
@[simp] theorem State.latchFetch_mfr : (s.latchFetch w).mfr = s.mfr := rfl
@[simp] theorem State.latchFetch_run : (s.latchFetch w).run = s.run := rfl
@[simp] theorem State.latchFetch_mem : (s.latchFetch w).mem = s.mem := rfl
@[simp] theorem State.latchFetch_stopReq : (s.latchFetch w).stopReq = s.stopReq := rfl
@[simp] theorem State.latchFetch_lc : (s.latchFetch w).lc = s.lc := rfl
@[simp] theorem State.latchFetch_portLog : (s.latchFetch w).portLog = s.portLog := rfl
@[simp] theorem State.latchFetch_trace : (s.latchFetch w).trace = s.trace := rfl
@[simp] theorem State.readGpr_latchFetch (q : Reg) :
    (s.latchFetch w).readGpr q = s.readGpr q := rfl
@[simp] theorem State.readIxr_latchFetch (y : IxSel) :
    (s.latchFetch w).readIxr y = s.readIxr y := rfl
@[simp] theorem State.readMem_latchFetch (b : Addr) :
    (s.latchFetch w).readMem b = s.readMem b := rfl

end

/-! ### `State.logPort` -/

section
variable (s : State) (e : PortEvent)

@[simp] theorem State.logPort_gpr : (s.logPort e).gpr = s.gpr := rfl
@[simp] theorem State.logPort_ixr : (s.logPort e).ixr = s.ixr := rfl
@[simp] theorem State.logPort_pc : (s.logPort e).pc = s.pc := rfl
@[simp] theorem State.logPort_mar : (s.logPort e).mar = s.mar := rfl
@[simp] theorem State.logPort_mbr : (s.logPort e).mbr = s.mbr := rfl
@[simp] theorem State.logPort_ir : (s.logPort e).ir = s.ir := rfl
@[simp] theorem State.logPort_cc : (s.logPort e).cc = s.cc := rfl
@[simp] theorem State.logPort_mfr : (s.logPort e).mfr = s.mfr := rfl
@[simp] theorem State.logPort_run : (s.logPort e).run = s.run := rfl
@[simp] theorem State.logPort_mem : (s.logPort e).mem = s.mem := rfl
@[simp] theorem State.logPort_stopReq : (s.logPort e).stopReq = s.stopReq := rfl
@[simp] theorem State.logPort_lc : (s.logPort e).lc = s.lc := rfl
@[simp] theorem State.logPort_portLog : (s.logPort e).portLog = e :: s.portLog := rfl
@[simp] theorem State.logPort_trace : (s.logPort e).trace = s.trace := rfl
@[simp] theorem State.readGpr_logPort (q : Reg) :
    (s.logPort e).readGpr q = s.readGpr q := rfl
@[simp] theorem State.readIxr_logPort (y : IxSel) :
    (s.logPort e).readIxr y = s.readIxr y := rfl
@[simp] theorem State.readMem_logPort (b : Addr) :
    (s.logPort e).readMem b = s.readMem b := rfl

end

/-! ### `State.halt` -/

section
variable (s : State)

@[simp] theorem State.halt_gpr : s.halt.gpr = s.gpr := rfl
@[simp] theorem State.halt_ixr : s.halt.ixr = s.ixr := rfl
@[simp] theorem State.halt_pc : s.halt.pc = s.pc := rfl
@[simp] theorem State.halt_mar : s.halt.mar = s.mar := rfl
@[simp] theorem State.halt_mbr : s.halt.mbr = s.mbr := rfl
@[simp] theorem State.halt_ir : s.halt.ir = s.ir := rfl
@[simp] theorem State.halt_cc : s.halt.cc = s.cc := rfl
@[simp] theorem State.halt_mfr : s.halt.mfr = s.mfr := rfl
@[simp] theorem State.halt_run : s.halt.run = .halted := rfl
@[simp] theorem State.halt_mem : s.halt.mem = s.mem := rfl
@[simp] theorem State.halt_stopReq : s.halt.stopReq = s.stopReq := rfl
@[simp] theorem State.halt_lc : s.halt.lc = s.lc := rfl
@[simp] theorem State.halt_portLog : s.halt.portLog = s.portLog := rfl
@[simp] theorem State.halt_trace : s.halt.trace = .halt :: s.trace := rfl
@[simp] theorem State.readGpr_halt (q : Reg) :
    s.halt.readGpr q = s.readGpr q := rfl
@[simp] theorem State.readIxr_halt (y : IxSel) :
    s.halt.readIxr y = s.readIxr y := rfl
@[simp] theorem State.readMem_halt (b : Addr) :
    s.halt.readMem b = s.readMem b := rfl

end

/-! ### `State.stop` -/

section
variable (s : State)

@[simp] theorem State.stop_gpr : s.stop.gpr = s.gpr := rfl
@[simp] theorem State.stop_ixr : s.stop.ixr = s.ixr := rfl
@[simp] theorem State.stop_pc : s.stop.pc = s.pc := rfl
@[simp] theorem State.stop_mar : s.stop.mar = s.mar := rfl
@[simp] theorem State.stop_mbr : s.stop.mbr = s.mbr := rfl
@[simp] theorem State.stop_ir : s.stop.ir = s.ir := rfl
@[simp] theorem State.stop_cc : s.stop.cc = s.cc := rfl
@[simp] theorem State.stop_mfr : s.stop.mfr = s.mfr := rfl
@[simp] theorem State.stop_run : s.stop.run = s.run := rfl
@[simp] theorem State.stop_mem : s.stop.mem = s.mem := rfl
@[simp] theorem State.stop_stopReq : s.stop.stopReq = true := rfl
@[simp] theorem State.stop_lc : s.stop.lc = s.lc := rfl
@[simp] theorem State.stop_portLog : s.stop.portLog = s.portLog := rfl
@[simp] theorem State.stop_trace : s.stop.trace = s.trace := rfl
@[simp] theorem State.readGpr_stop (q : Reg) :
    s.stop.readGpr q = s.readGpr q := rfl
@[simp] theorem State.readIxr_stop (y : IxSel) :
    s.stop.readIxr y = s.readIxr y := rfl
@[simp] theorem State.readMem_stop (b : Addr) :
    s.stop.readMem b = s.readMem b := rfl

end

/-! ### `State.takeStop` -/

section
variable (s : State)

@[simp] theorem State.takeStop_gpr : s.takeStop.gpr = s.gpr := rfl
@[simp] theorem State.takeStop_ixr : s.takeStop.ixr = s.ixr := rfl
@[simp] theorem State.takeStop_pc : s.takeStop.pc = s.pc := rfl
@[simp] theorem State.takeStop_mar : s.takeStop.mar = s.mar := rfl
@[simp] theorem State.takeStop_mbr : s.takeStop.mbr = s.mbr := rfl
@[simp] theorem State.takeStop_ir : s.takeStop.ir = s.ir := rfl
@[simp] theorem State.takeStop_cc : s.takeStop.cc = s.cc := rfl
@[simp] theorem State.takeStop_mfr : s.takeStop.mfr = s.mfr := rfl
@[simp] theorem State.takeStop_run : s.takeStop.run = .halted := rfl
@[simp] theorem State.takeStop_mem : s.takeStop.mem = s.mem := rfl
@[simp] theorem State.takeStop_stopReq : s.takeStop.stopReq = false := rfl
@[simp] theorem State.takeStop_lc : s.takeStop.lc = s.lc := rfl
@[simp] theorem State.takeStop_portLog : s.takeStop.portLog = s.portLog := rfl
@[simp] theorem State.takeStop_trace : s.takeStop.trace = .halt :: s.trace := rfl
@[simp] theorem State.readGpr_takeStop (q : Reg) :
    s.takeStop.readGpr q = s.readGpr q := rfl
@[simp] theorem State.readIxr_takeStop (y : IxSel) :
    s.takeStop.readIxr y = s.readIxr y := rfl
@[simp] theorem State.readMem_takeStop (b : Addr) :
    s.takeStop.readMem b = s.readMem b := rfl

end

/-! ### `State.latchPointer` -/

section
variable (s : State) (e : Resolved)

@[simp] theorem State.latchPointer_gpr : (s.latchPointer e).gpr = s.gpr := by
  unfold State.latchPointer; split <;> rfl
@[simp] theorem State.latchPointer_ixr : (s.latchPointer e).ixr = s.ixr := by
  unfold State.latchPointer; split <;> rfl
@[simp] theorem State.latchPointer_pc : (s.latchPointer e).pc = s.pc := by
  unfold State.latchPointer; split <;> rfl
@[simp] theorem State.latchPointer_ir : (s.latchPointer e).ir = s.ir := by
  unfold State.latchPointer; split <;> rfl
@[simp] theorem State.latchPointer_cc : (s.latchPointer e).cc = s.cc := by
  unfold State.latchPointer; split <;> rfl
@[simp] theorem State.latchPointer_mfr : (s.latchPointer e).mfr = s.mfr := by
  unfold State.latchPointer; split <;> rfl
@[simp] theorem State.latchPointer_run : (s.latchPointer e).run = s.run := by
  unfold State.latchPointer; split <;> rfl
@[simp] theorem State.latchPointer_mem : (s.latchPointer e).mem = s.mem := by
  unfold State.latchPointer; split <;> rfl
@[simp] theorem State.latchPointer_stopReq : (s.latchPointer e).stopReq = s.stopReq := by
  unfold State.latchPointer; split <;> rfl
@[simp] theorem State.latchPointer_lc : (s.latchPointer e).lc = s.lc := by
  unfold State.latchPointer; split <;> rfl
@[simp] theorem State.latchPointer_portLog : (s.latchPointer e).portLog = s.portLog := by
  unfold State.latchPointer; split <;> rfl
@[simp] theorem State.latchPointer_trace : (s.latchPointer e).trace = s.trace := by
  unfold State.latchPointer; split <;> rfl
@[simp] theorem State.readGpr_latchPointer (q : Reg) :
    (s.latchPointer e).readGpr q = s.readGpr q := by
  unfold State.latchPointer; split <;> rfl
@[simp] theorem State.readIxr_latchPointer (y : IxSel) :
    (s.latchPointer e).readIxr y = s.readIxr y := by
  unfold State.latchPointer; split <;> rfl
@[simp] theorem State.readMem_latchPointer (b : Addr) :
    (s.latchPointer e).readMem b = s.readMem b := by
  unfold State.latchPointer; split <;> rfl

end

/-! ### `raise` -/

section
variable (c : Config) (f : Fault) (s : State)

@[simp] theorem raise_gpr : (raise c f s).gpr = s.gpr := rfl
@[simp] theorem raise_ixr : (raise c f s).ixr = s.ixr := rfl
@[simp] theorem raise_pc : (raise c f s).pc = s.pc := rfl
@[simp] theorem raise_mar : (raise c f s).mar = s.mar := rfl
@[simp] theorem raise_mbr : (raise c f s).mbr = s.mbr := rfl
@[simp] theorem raise_ir : (raise c f s).ir = s.ir := rfl
@[simp] theorem raise_cc : (raise c f s).cc = s.cc := rfl
@[simp] theorem raise_mfr : (raise c f s).mfr = faultCode c f := rfl
@[simp] theorem raise_run : (raise c f s).run = .faulted := rfl
@[simp] theorem raise_mem : (raise c f s).mem = s.mem := rfl
@[simp] theorem raise_stopReq : (raise c f s).stopReq = s.stopReq := rfl
@[simp] theorem raise_lc : (raise c f s).lc = s.lc := rfl
@[simp] theorem raise_portLog : (raise c f s).portLog = s.portLog := rfl
@[simp] theorem raise_trace : (raise c f s).trace = s.trace := rfl
@[simp] theorem State.readGpr_raise (q : Reg) : (raise c f s).readGpr q = s.readGpr q := rfl
@[simp] theorem State.readIxr_raise (y : IxSel) : (raise c f s).readIxr y = s.readIxr y := rfl
@[simp] theorem State.readMem_raise (b : Addr) : (raise c f s).readMem b = s.readMem b := rfl

end

/-! ### What the register updates read back as -/

@[simp] theorem State.readGpr_writeGpr (s : State) (r q : Reg) (v : Word) :
    (s.writeGpr r v).readGpr q = if q = r then v else s.readGpr q := by
  have hq := q.isLt
  simp only [State.readGpr, State.writeGpr, Vector.getElem_set, BitVec.toNat_inj, eq_comm (a := r)]

@[simp] theorem State.readIxr_writeIxr (s : State) (x y : IxSel) (v : Word) :
    (s.writeIxr x v).readIxr y = if y = x ∧ x ≠ 0 then v else s.readIxr y := by
  have hx := x.isLt
  have hy := y.isLt
  unfold State.readIxr State.writeIxr
  by_cases h0 : y = 0
  · rw [dif_pos h0, dif_pos h0, if_neg]
    rintro ⟨rfl, h⟩
    exact h h0
  · rw [dif_neg h0, dif_neg h0]
    by_cases hx0 : x = 0
    · simp only [dif_pos hx0]
      rw [if_neg (fun h => h.2 hx0)]
    · have e : x.toNat - 1 = y.toNat - 1 ↔ y = x := by
        have a : x.toNat ≠ 0 := fun h => hx0 (BitVec.eq_of_toNat_eq h)
        have b : y.toNat ≠ 0 := fun h => h0 (BitVec.eq_of_toNat_eq h)
        rw [← BitVec.toNat_inj]
        omega
      simp only [dif_neg hx0, Vector.getElem_set, e]
      by_cases hyx : y = x <;> simp only [hyx, ne_eq, hx0, not_false_eq_true, and_self, and_true, if_true, if_false]

/-- The selector 0 reads as 0 in every state (R36). -/
@[simp] theorem State.readIxr_zero (s : State) : s.readIxr 0#2 = 0#16 := by simp [State.readIxr]

end Sys2Proof.Machine
end

