-- ==== Sys2Proof/Laws/Memory.lean ====
section
/-! SUPPORT. Memory: every operation keeps the canonical form, and a read after a write. -/

namespace Sys2Proof.Machine

/-- The canonical form from a later address on is one from an earlier address on. -/
theorem Memory.wfFrom_mono {lo lo' : Nat} (h : lo ≤ lo') :
    ∀ {m : Memory}, Memory.wfFrom lo' m = true → Memory.wfFrom lo m = true
  | [], _ => rfl
  | (a, v) :: rest, hm => by
    simp only [Memory.wfFrom, Bool.and_eq_true, decide_eq_true_eq] at hm ⊢
    exact ⟨⟨⟨h.trans hm.1.1.1, hm.1.1.2⟩, hm.1.2⟩, hm.2⟩

/-- An address below a canonical tail reads as unlisted. -/
theorem Memory.read_below {lo a : Nat} (h : a < lo) :
    ∀ {m : Memory}, Memory.wfFrom lo m = true → Memory.read m a = Memory.unlisted a
  | [], _ => rfl
  | (b, v) :: rest, hm => by
    simp only [Memory.wfFrom, Bool.and_eq_true, decide_eq_true_eq] at hm
    have hb : a ≠ b := by omega
    rw [Memory.read, if_neg hb]
    exact Memory.read_below (by omega) hm.2

/-- A write at or above `lo` keeps the canonical form from `lo` on. -/
theorem Memory.write_wfFrom {a : Nat} {v : Word} (ha : a ≤ maxAddr) :
    ∀ {lo : Nat} {m : Memory}, lo ≤ a → Memory.wfFrom lo m = true →
      Memory.wfFrom lo (Memory.write m a v) = true
  | lo, [], hlo, _ => by
    unfold Memory.write
    split
    · rfl
    · simp_all [Memory.wfFrom]
  | lo, (b, u) :: rest, hlo, hm => by
    have hm' := hm
    simp only [Memory.wfFrom, Bool.and_eq_true, decide_eq_true_eq] at hm'
    obtain ⟨⟨⟨h1, h2⟩, h3⟩, h4⟩ := hm'
    unfold Memory.write
    split
    · split
      · exact hm
      · simp_all only [Memory.wfFrom, Bool.and_eq_true, decide_eq_true_eq, bne_iff_ne, ne_eq,
          not_false_eq_true, and_true, true_and]
        omega
    · split
      · subst a
        split
        · exact Memory.wfFrom_mono (by omega) h4
        · simp_all [Memory.wfFrom]
      · have := Memory.write_wfFrom (v := v) ha (lo := b + 1) (by omega) h4
        simp_all [Memory.wfFrom]

/-- A write to an existing address keeps the canonical form. -/
theorem Memory.write_wf {m : Memory} (hm : m.wf = true) (a : Addr) (v : Word) :
    (m.write a.toNat v).wf = true :=
  Memory.write_wfFrom (by have := a.isLt; simp only [maxAddr]; omega) (Nat.zero_le _) hm

/-- What a canonical memory reads as after a write. -/
theorem Memory.read_writeFrom {a b : Nat} {v : Word} :
    ∀ {lo : Nat} {m : Memory}, Memory.wfFrom lo m = true →
      Memory.read (Memory.write m a v) b = if b = a then v else Memory.read m b
  | _, [], _ => by
    unfold Memory.write
    split <;> simp_all [Memory.read, Memory.unlisted]
  | lo, (d, u) :: rest, hm => by
    simp only [Memory.wfFrom, Bool.and_eq_true, decide_eq_true_eq] at hm
    unfold Memory.write
    split
    · rename_i hlt
      split
      · rename_i hv
        split
        · rename_i hb
          subst hb
          have hbd : b ≠ d := by omega
          rw [Memory.read, if_neg hbd, Memory.read_below (by omega) hm.2, hv]
        · rfl
      · simp only [Memory.read]
    · split
      · rename_i hnl had
        subst had
        split
        · rename_i hv
          split
          · rename_i hb
            subst hb
            rw [Memory.read_below (Nat.lt_succ_self _) hm.2, hv]
          · rename_i hb
            simp only [Memory.read, if_neg hb]
        · simp only [Memory.read]
          split <;> rfl
      · rename_i hnl hne
        simp only [Memory.read]
        rw [Memory.read_writeFrom hm.2]
        by_cases hb : b = a
        · have hbd : b ≠ d := by omega
          simp [hb, hne]
        · simp [hb]

/-- A read after a write in a canonical memory. -/
theorem State.readMem_writeMem {s : State} (hm : s.mem.wf = true) (a b : Addr) (v : Word) :
    (s.writeMem a v).readMem b = if b = a then v else s.readMem b := by
  unfold State.readMem State.writeMem
  rw [Memory.read_writeFrom hm]
  simp only [BitVec.toNat_inj]

/-- The memory of the state after reset is canonical, whatever `PC_RESET` is. -/
theorem State.resetAt_mem_wf (pcReset : Addr) : (State.resetAt pcReset).mem.wf = true := rfl

/-- A checked write keeps the canonical form. -/
theorem memWrite_wf {n : Nat} {v : Word} {s t : State} (hm : s.mem.wf = true)
    (h : memWrite n v s = .ok t) : t.mem.wf = true := by
  unfold memWrite at h
  split at h
  · cases h
  · cases h
    exact Memory.write_wf hm _ _

/-- `loadProgram` keeps the canonical form. -/
theorem State.loadProgram_wf {s : State} (hm : s.mem.wf = true) (pairs : List (Nat × Nat)) :
    (s.loadProgram pairs).mem.wf = true := by
  suffices h : ∀ (pairs : List (Nat × Nat)) (s t : State), s.mem.wf = true →
      loadPairs pairs s = .ok t → t.mem.wf = true by
    unfold State.loadProgram
    split
    · exact h _ _ _ hm ‹_›
    · exact hm
  intro pairs
  induction pairs with
  | nil => intro s t hs h; cases h; exact hs
  | cons p rest ih =>
    intro s t hs h
    unfold loadPairs at h
    split at h
    · split at h
      · cases h
      · exact ih _ _ (memWrite_wf hs ‹_›) h
    · cases h

/-- The placing of a fetch word keeps the canonical form. -/
theorem State.withFetchWord_wf {s : State} (hm : s.mem.wf = true) (nbits w : Nat) :
    (s.withFetchWord nbits w).mem.wf = true :=
  Memory.write_wf hm _ _

end Sys2Proof.Machine
end

