-- ==== Sys2Proof/Laws/Ops.lean ====
section
/-! SUPPORT. What each shared operation of Machine/Ops.lean can answer, said once. -/

namespace Sys2Proof.Machine

/-! ### Address checks -/

theorem checkAddr_ok_iff {n : Nat} {a : Addr} : checkAddr n = .ok a ↔ n = a.toNat := by
  have ha := a.isLt
  unfold checkAddr maxAddr
  split
  · rw [Except.ok.injEq, ← BitVec.toNat_inj, BitVec.toNat_ofNat]
    omega
  · constructor
    · rintro ⟨⟩
    · omega

theorem checkAddr_error_iff {n : Nat} {f : Fault} :
    checkAddr n = .error f ↔ maxAddr < n ∧ f = .addressOutOfRange n := by
  unfold checkAddr
  split
  · constructor
    · rintro ⟨⟩
    · rintro ⟨h, -⟩
      omega
  · rw [Except.error.injEq]
    exact ⟨fun h => ⟨by omega, h.symm⟩, fun h => h.2.symm⟩

@[simp] theorem checkAddr_toNat (a : Addr) : checkAddr a.toNat = .ok a := checkAddr_ok_iff.mpr rfl

@[simp] theorem memRead_toNat (a : Addr) (s : State) : memRead a.toNat s = .ok (s.readMem a) := by
  simp [memRead]

@[simp] theorem memWrite_toNat (a : Addr) (v : Word) (s : State) :
    memWrite a.toNat v s = .ok (s.writeMem a v) := by
  simp [memWrite]

/-- `PC + 1` exists exactly below 2047, and is the incremented counter (R107). -/
theorem successor_ok_iff {s : State} {a : Addr} :
    successor s = .ok a ↔ s.pc.toNat < maxAddr ∧ a = s.pc + 1 := by
  have hp := s.pc.isLt
  have ha := a.isLt
  unfold successor maxAddr
  have h1 : (1 : Addr).toNat = 1 := rfl
  rw [checkAddr_ok_iff, ← BitVec.toNat_inj, BitVec.toNat_add, h1]
  omega

theorem successor_error_iff {s : State} {f : Fault} :
    successor s = .error f ↔ s.pc.toNat = maxAddr ∧ f = .addressOutOfRange 2048 := by
  have hp := s.pc.isLt
  unfold successor
  rw [checkAddr_error_iff]
  unfold maxAddr
  constructor
  · rintro ⟨h, rfl⟩
    have : s.pc.toNat = 2047 := by omega
    simp [this]
  · rintro ⟨h, rfl⟩
    simp [h]

/-- The successor below 2047. -/
theorem successor_of_lt {s : State} (h : s.pc.toNat < maxAddr) : successor s = .ok (s.pc + 1) :=
  successor_ok_iff.mpr ⟨h, rfl⟩

/-- No successor at 2047. -/
theorem successor_at_end {s : State} (h : s.pc.toNat = maxAddr) :
    successor s = .error (.addressOutOfRange 2048) :=
  successor_error_iff.mpr ⟨h, rfl⟩

/-! ### The resolver -/

/-- Everything `resolve` answers with success on: the sum exists, and either it is the address or
the word there exists as an address. -/
theorem resolve_ok_cases {ix : IxSel} {i : Bool} {addr : Lit5} {s : State} {e : Resolved}
    (h : resolve ix i addr s = .ok e) :
    (i = false ∧ addr.toNat + (s.readIxr ix).toNat = e.ea.toNat ∧ e.pointer = none) ∨
    (i = true ∧ ∃ a : Addr, addr.toNat + (s.readIxr ix).toNat = a.toNat ∧
      (s.readMem a).toNat = e.ea.toNat ∧ e.pointer = some (a, s.readMem a)) := by
  unfold resolve at h
  split at h
  · cases h
  · rename_i a ha
    split at h
    · rename_i hi
      rw [memRead_toNat] at h
      dsimp only at h
      split at h
      · cases h
      · rename_i ea hea
        cases h
        exact .inr ⟨hi, a, checkAddr_ok_iff.mp ha, checkAddr_ok_iff.mp hea, rfl⟩
    · rename_i hi
      cases h
      exact .inl ⟨by simpa using hi, checkAddr_ok_iff.mp ha, rfl⟩

/-- Everything `resolve` faults on: the sum, or the pointer, above 2047. -/
theorem resolve_error_cases {ix : IxSel} {i : Bool} {addr : Lit5} {s : State} {f : Fault}
    (h : resolve ix i addr s = .error f) :
    (maxAddr < addr.toNat + (s.readIxr ix).toNat ∧
      f = .addressOutOfRange (addr.toNat + (s.readIxr ix).toNat)) ∨
    (i = true ∧ ∃ a : Addr, addr.toNat + (s.readIxr ix).toNat = a.toNat ∧
      maxAddr < (s.readMem a).toNat ∧ f = .addressOutOfRange (s.readMem a).toNat) := by
  unfold resolve at h
  split at h
  · rename_i f' hf
    cases h
    exact .inl (checkAddr_error_iff.mp hf)
  · rename_i a ha
    split at h
    · rename_i hi
      rw [memRead_toNat] at h
      dsimp only at h
      split at h
      · rename_i f' hf
        cases h
        exact .inr ⟨hi, a, checkAddr_ok_iff.mp ha, checkAddr_error_iff.mp hf⟩
      · cases h
    · cases h

/-- A resolver fault is an address fault. -/
theorem faultCode_of_resolve_error {ix : IxSel} {i : Bool} {addr : Lit5} {s : State} {f : Fault}
    (h : resolve ix i addr s = .error f) (c : Config) : faultCode c f = c.mfrAddressRange := by
  rcases resolve_error_cases h with ⟨-, rfl⟩ | ⟨-, a, -, -, rfl⟩ <;> rfl

/-! ### The shapes of an instruction rule -/

/-- What `advance` answers. -/
theorem advance_cases {c : Config} {s t : State} {commit : State → State}
    (h : advance c s commit = .next t) :
    (s.pc.toNat < maxAddr ∧ t = (commit s).setPc (s.pc + 1)) ∨
    (s.pc.toNat = maxAddr ∧ t = raise c (.addressOutOfRange 2048) s) := by
  unfold advance at h
  split at h
  · rename_i f hf
    obtain ⟨hp, rfl⟩ := successor_error_iff.mp hf
    cases h
    exact .inr ⟨hp, rfl⟩
  · rename_i a ha
    obtain ⟨hp, rfl⟩ := successor_ok_iff.mp ha
    cases h
    exact .inl ⟨hp, rfl⟩

/-- Below 2047 `advance` commits and increments. -/
theorem advance_of_lt {c : Config} {s : State} {commit : State → State}
    (h : s.pc.toNat < maxAddr) :
    advance c s commit = .next ((commit s).setPc (s.pc + 1)) := by
  unfold advance
  rw [successor_of_lt h]

/-- At 2047 `advance` faults and commits nothing. -/
theorem advance_at_end {c : Config} {s : State} {commit : State → State}
    (h : s.pc.toNat = maxAddr) :
    advance c s commit = .next (raise c (.addressOutOfRange 2048) s) := by
  unfold advance
  rw [successor_at_end h]

/-- What `withAddress` answers. -/
theorem withAddress_cases {c : Config} {s t : State} {ix : IxSel} {i : Bool} {addr : Lit5}
    {k : Resolved → Outcome} (h : withAddress c s ix i addr k = .next t) :
    (∃ e, resolve ix i addr s = .ok e ∧ k e = .next t) ∨
    (∃ f, resolve ix i addr s = .error f ∧ t = raise c f s) := by
  unfold withAddress at h
  split at h
  · cases h
    exact .inr ⟨_, ‹_›, rfl⟩
  · exact .inl ⟨_, ‹_›, h⟩

theorem withAddress_of_ok {c : Config} {s : State} {ix : IxSel} {i : Bool} {addr : Lit5}
    {k : Resolved → Outcome} {e : Resolved} (h : resolve ix i addr s = .ok e) :
    withAddress c s ix i addr k = k e := by
  unfold withAddress
  rw [h]

theorem withAddress_of_error {c : Config} {s : State} {ix : IxSel} {i : Bool} {addr : Lit5}
    {k : Resolved → Outcome} {f : Fault} (h : resolve ix i addr s = .error f) :
    withAddress c s ix i addr k = .next (raise c f s) := by
  unfold withAddress
  rw [h]

/-- What `loadAt` answers: the loaded commit, or a fault that commits nothing. -/
theorem loadAt_cases {c : Config} {s t : State} {ix : IxSel} {i : Bool} {addr : Lit5}
    {commit : Word → State → State} (h : loadAt c s ix i addr commit = .next t) :
    (∃ e, resolve ix i addr s = .ok e ∧ s.pc.toNat < maxAddr ∧
      t = ((commit (s.readMem e.ea) s).latchAccess e.ea (s.readMem e.ea)).setPc (s.pc + 1)) ∨
    (∃ f, t = raise c f s) := by
  rcases withAddress_cases h with ⟨e, he, hk⟩ | ⟨f, -, rfl⟩
  · rcases advance_cases hk with ⟨hp, rfl⟩ | ⟨-, rfl⟩
    · exact .inl ⟨e, he, hp, rfl⟩
    · exact .inr ⟨_, rfl⟩
  · exact .inr ⟨_, rfl⟩

/-- What `storeAt` answers: the stored word, or a fault that stores nothing. -/
theorem storeAt_cases {c : Config} {s t : State} {ix : IxSel} {i : Bool} {addr : Lit5} {v : Word}
    (h : storeAt c s ix i addr v = .next t) :
    (∃ e, resolve ix i addr s = .ok e ∧ s.pc.toNat < maxAddr ∧
      t = ((s.writeMem e.ea v).latchAccess e.ea v).setPc (s.pc + 1)) ∨
    (∃ f, t = raise c f s) := by
  rcases withAddress_cases h with ⟨e, he, hk⟩ | ⟨f, -, rfl⟩
  · rcases advance_cases hk with ⟨hp, rfl⟩ | ⟨-, rfl⟩
    · exact .inl ⟨e, he, hp, rfl⟩
    · exact .inr ⟨_, rfl⟩
  · exact .inr ⟨_, rfl⟩

/-- What `branchAt` answers: taken, not taken, or a fault that commits nothing. -/
theorem branchAt_cases {c : Config} {s t : State} {ix : IxSel} {i : Bool} {addr : Lit5}
    {taken : Bool} {commit : State → State}
    (h : branchAt c s ix i addr taken commit = .next t) :
    (∃ e, resolve ix i addr s = .ok e ∧ taken = true ∧
      t = (commit (s.latchPointer e)).setPc e.ea) ∨
    (∃ e, resolve ix i addr s = .ok e ∧ taken = false ∧ s.pc.toNat < maxAddr ∧
      t = (commit (s.latchPointer e)).setPc (s.pc + 1)) ∨
    (∃ f, t = raise c f s) := by
  rcases withAddress_cases h with ⟨e, he, hk⟩ | ⟨f, -, rfl⟩
  · cases taken with
    | true => cases hk; exact .inl ⟨e, he, rfl, rfl⟩
    | false =>
      rw [if_neg (by decide)] at hk
      rcases advance_cases hk with ⟨hp, rfl⟩ | ⟨-, rfl⟩
      · exact .inr (.inl ⟨e, he, rfl, hp, rfl⟩)
      · exact .inr (.inr ⟨_, rfl⟩)
  · exact .inr (.inr ⟨_, rfl⟩)

/-- What `pairOp` answers: the pair written, or a fault that writes neither. -/
theorem pairOp_cases {c : Config} {s t : State} {rx ry : Reg} {check : Word → Word → Option Fault}
    {result : Word → Word → Word × Word} (h : pairOp c s rx ry check result = .next t) :
    (oddField rx = false ∧ oddField ry = false ∧ check (s.readGpr rx) (s.readGpr ry) = none ∧
      s.pc.toNat < maxAddr ∧
      t = ((s.writeGpr rx (result (s.readGpr rx) (s.readGpr ry)).1).writeGpr (rx + 1)
        (result (s.readGpr rx) (s.readGpr ry)).2).setPc (s.pc + 1)) ∨
    (∃ f, t = raise c f s) := by
  unfold pairOp at h
  split at h
  · cases h
    exact .inr ⟨_, rfl⟩
  · rename_i hodd
    simp only [Bool.or_eq_true, not_or, Bool.not_eq_true] at hodd
    split at h
    · cases h
      exact .inr ⟨_, rfl⟩
    · rename_i hnone
      rcases advance_cases h with ⟨hp, rfl⟩ | ⟨-, rfl⟩
      · exact .inl ⟨hodd.1, hodd.2, hnone, hp, rfl⟩
      · exact .inr ⟨_, rfl⟩

/-- What `portAsk` answers: the answer written and logged, or a fault with no port touched. -/
theorem portAsk_cases {c : Config} {s t : State} {q : PortQuery} {r : Reg} {d : Lit5}
    (h : portAsk c s q r d = .next t) :
    (s.pc.toNat < maxAddr ∧
      t = ((s.writeGpr r (c.port q s.portLog d)).logPort
        (.answered q d (c.port q s.portLog d))).setPc (s.pc + 1)) ∨
    (∃ f, t = raise c f s) := by
  rcases advance_cases h with ⟨hp, rfl⟩ | ⟨-, rfl⟩
  · exact .inl ⟨hp, rfl⟩
  · exact .inr ⟨_, rfl⟩

/-! ### The shapes where they complete -/

/-- `loadAt` with an address, below 2047. -/
theorem loadAt_of_ok {c : Config} {s : State} {ix : IxSel} {i : Bool} {addr : Lit5}
    {commit : Word → State → State} {e : Resolved} (he : resolve ix i addr s = .ok e)
    (hp : s.pc.toNat < maxAddr) :
    loadAt c s ix i addr commit = .next
      (((commit (s.readMem e.ea) s).latchAccess e.ea (s.readMem e.ea)).setPc (s.pc + 1)) := by
  simp only [loadAt, withAddress_of_ok he, advance_of_lt hp]

/-- `storeAt` with an address, below 2047. -/
theorem storeAt_of_ok {c : Config} {s : State} {ix : IxSel} {i : Bool} {addr : Lit5} {v : Word}
    {e : Resolved} (he : resolve ix i addr s = .ok e) (hp : s.pc.toNat < maxAddr) :
    storeAt c s ix i addr v =
      .next (((s.writeMem e.ea v).latchAccess e.ea v).setPc (s.pc + 1)) := by
  simp only [storeAt, withAddress_of_ok he, advance_of_lt hp]

/-- `branchAt` taken, at any PC. -/
theorem branchAt_taken {c : Config} {s : State} {ix : IxSel} {i : Bool} {addr : Lit5}
    {taken : Bool} {commit : State → State} {e : Resolved} (he : resolve ix i addr s = .ok e)
    (ht : taken = true) :
    branchAt c s ix i addr taken commit = .next ((commit (s.latchPointer e)).setPc e.ea) := by
  simp only [branchAt, withAddress_of_ok he, ht, if_true]

/-- `branchAt` not taken, below 2047. -/
theorem branchAt_not_taken {c : Config} {s : State} {ix : IxSel} {i : Bool} {addr : Lit5}
    {taken : Bool} {commit : State → State} {e : Resolved} (he : resolve ix i addr s = .ok e)
    (ht : taken = false) (hp : s.pc.toNat < maxAddr) :
    branchAt c s ix i addr taken commit = .next ((commit (s.latchPointer e)).setPc (s.pc + 1)) := by
  simp only [branchAt, withAddress_of_ok he, ht, Bool.false_eq_true, if_false, advance_of_lt hp]

/-- Every fault code of an admissible configuration is nonzero (R235). -/
theorem faultCode_ne_zero {c : Config} (h : c.Admissible) (f : Fault) : faultCode c f ≠ 0 := by
  cases f
  · exact h.unknownOpcode_ne_zero
  · exact h.divideByZero_ne_zero
  · exact h.addressRange_ne_zero

/-- Every fault code is a legal MFR value (R25). -/
theorem legalMfr_faultCode (c : Config) (f : Fault) : legalMfr c (faultCode c f) := by
  cases f <;> simp [legalMfr, faultCode]

end Sys2Proof.Machine
end

