-- ==== Sys2Proof/Laws/Cycle.lean ====
section
/-! SUPPORT. What one step can answer, and the standard machine as the configured one. -/

namespace Sys2Proof.Machine

/-- `exec` is dispatch under the standard configuration. -/
theorem exec_eq_execIn (i : Instr) (s : State) : exec i s = execIn Config.standard i s := by
  cases i <;> rfl

/-- `step` is the configured step under the standard configuration. -/
theorem step_eq_stepIn (s : State) : step s = stepIn Config.standard s := by
  unfold step stepIn
  rw [show exec = execIn Config.standard from funext fun i => funext fun t => exec_eq_execIn i t]

/-- `perform` is the configured command under the standard configuration. -/
theorem perform_eq_performIn (cmd : Command) (s : State) :
    perform cmd s = performIn Config.standard cmd s := by
  cases cmd with
  | reset => rfl
  | loadProgram pairs => rfl
  | step => exact step_eq_stepIn s
  | run arrivals =>
    unfold perform performIn State.runCommand
    rw [show step = stepIn Config.standard from funext step_eq_stepIn]
  | stop => rfl

/-- Everything `cycle` can do: nothing in a terminal state; the halt on the zero word; a decode-level
fault; or the dispatched instruction, on the state after the fetch latches. -/
theorem cycle_cases {c : Config} {ex : Instr → State → Outcome} {s : State} {o : Outcome}
    (h : cycle c ex s = o) :
    (s.run ≠ .ready ∧ o = .next s) ∨
    (s.run = .ready ∧ s.fetch = 0 ∧ o = .next s.halt) ∨
    (s.run = .ready ∧ s.fetch ≠ 0 ∧
      o = .next (raise c .unknownOpcode (s.latchFetch s.fetch))) ∨
    (∃ i canonical, s.run = .ready ∧ s.fetch ≠ 0 ∧ decode c.opc s.fetch = .known i canonical ∧
      o = ex i (s.latchFetch s.fetch)) := by
  subst h
  unfold cycle
  split
  · rename_i hr
    exact .inl ⟨by simp [hr], rfl⟩
  · rename_i hr
    exact .inl ⟨by simp [hr], rfl⟩
  · rename_i hr
    split
    · rename_i hz
      exact .inr (.inl ⟨hr, hz, rfl⟩)
    · rename_i hz
      refine .inr (.inr ?_)
      unfold decodeAndExecute
      split
      · exact .inl ⟨hr, hz, rfl⟩
      · split
        · exact .inl ⟨hr, hz, rfl⟩
        · rename_i i canonical hd
          split
          · exact .inl ⟨hr, hz, rfl⟩
          · exact .inr ⟨i, canonical, hr, hz, hd, rfl⟩

end Sys2Proof.Machine
end

