-- ==== Sys2Proof/Laws/Decode.lean ====
section
/-! SUPPORT. Each field function reads back what each packing wrote, and the opcode lookup of an
injective assignment. -/

namespace Sys2Proof

/-! ### Bit `j` of each packing -/

section Fields
variable (r ix : BitVec 2) (a b : Bool) (v : Lit5) (k : Nibble) (j : Nat)

theorem getLsbD_packStandard : (packStandard r ix a v).getLsbD j =
    if j < 5 then v.getLsbD j else (r ++ ix ++ BitVec.ofBool a).getLsbD (j - 5) :=
  BitVec.getLsbD_append

theorem getLsbD_packIndexOnly : (packIndexOnly ix a v).getLsbD j =
    if j < 5 then v.getLsbD j else (0#2 ++ ix ++ BitVec.ofBool a).getLsbD (j - 5) :=
  BitVec.getLsbD_append

theorem getLsbD_packShiftRotate : (packShiftRotate r a b k).getLsbD j =
    if j < 4 then k.getLsbD j
    else (r ++ BitVec.ofBool a ++ BitVec.ofBool b ++ 0#2).getLsbD (j - 4) :=
  BitVec.getLsbD_append

theorem getLsbD_packImmediateOrPort : (packImmediateOrPort r v).getLsbD j =
    if j < 5 then v.getLsbD j else (r ++ 0#3).getLsbD (j - 5) :=
  BitVec.getLsbD_append

theorem getLsbD_packRegisterRegister : (packRegisterRegister r ix).getLsbD j =
    if j < 6 then (0#6).getLsbD j else (r ++ ix).getLsbD (j - 6) :=
  BitVec.getLsbD_append

theorem getLsbD_packRegisterOnly : (packRegisterOnly r).getLsbD j =
    if j < 8 then (0#8).getLsbD j else r.getLsbD (j - 8) :=
  BitVec.getLsbD_append

theorem getLsbD_packReturn : (packReturn v).getLsbD j =
    if j < 5 then v.getLsbD j else (0#5).getLsbD (j - 5) :=
  BitVec.getLsbD_append

theorem getLsbD_packTrapCode : (packTrapCode k).getLsbD j =
    if j < 4 then k.getLsbD j else (0#6).getLsbD (j - 4) :=
  BitVec.getLsbD_append

end Fields

section ReadBack
variable (op : BitVec 6) (r ix : BitVec 2) (a b : Bool) (v : Lit5) (k : Nibble)

theorem opField_append (p : BitVec 10) : opField (op ++ p) = op := by
  apply BitVec.eq_of_getLsbD_eq
  intro j hj
  unfold opField
  simp only [BitVec.getLsbD_extractLsb', BitVec.getLsbD_append]
  simp [hj]

theorem fields_standard :
    rField (op ++ packStandard r ix a v) = r ∧ ixField (op ++ packStandard r ix a v) = ix ∧
      iField (op ++ packStandard r ix a v) = a ∧ addrField (op ++ packStandard r ix a v) = v := by
  refine ⟨?_, ?_, ?_, ?_⟩
  · apply BitVec.eq_of_getLsbD_eq
    intro j hj
    simp only [rField, BitVec.getLsbD_extractLsb', getLsbD_packStandard,
      BitVec.getLsbD_append]
    interval_cases j <;> simp
  · apply BitVec.eq_of_getLsbD_eq
    intro j hj
    simp only [ixField, BitVec.getLsbD_extractLsb', getLsbD_packStandard,
      BitVec.getLsbD_append]
    interval_cases j <;> simp
  · unfold iField
    simp only [getLsbD_packStandard, BitVec.getLsbD_append]
    simp
  · apply BitVec.eq_of_getLsbD_eq
    intro j hj
    simp only [addrField, BitVec.getLsbD_extractLsb', getLsbD_packStandard,
      BitVec.getLsbD_append]
    interval_cases j <;> simp

theorem canonical_standard : Layout.canonical .standard (op ++ packStandard r ix a v) = true := by
  simp only [Layout.canonical, Layout.reservedMask, beq_iff_eq]
  apply BitVec.eq_of_getLsbD_eq
  intro j hj
  simp only [BitVec.getLsbD_and, getLsbD_packStandard, BitVec.getLsbD_append]
  interval_cases j <;> simp

theorem fields_indexOnly :
    ixField (op ++ packIndexOnly ix a v) = ix ∧ iField (op ++ packIndexOnly ix a v) = a ∧
      addrField (op ++ packIndexOnly ix a v) = v := by
  refine ⟨?_, ?_, ?_⟩
  · apply BitVec.eq_of_getLsbD_eq
    intro j hj
    simp only [ixField, BitVec.getLsbD_extractLsb', getLsbD_packIndexOnly,
      BitVec.getLsbD_append]
    interval_cases j <;> simp
  · unfold iField
    simp only [getLsbD_packIndexOnly, BitVec.getLsbD_append]
    simp
  · apply BitVec.eq_of_getLsbD_eq
    intro j hj
    simp only [addrField, BitVec.getLsbD_extractLsb', getLsbD_packIndexOnly,
      BitVec.getLsbD_append]
    interval_cases j <;> simp

theorem canonical_indexOnly : Layout.canonical .indexOnly (op ++ packIndexOnly ix a v) = true := by
  simp only [Layout.canonical, Layout.reservedMask, beq_iff_eq]
  apply BitVec.eq_of_getLsbD_eq
  intro j hj
  simp only [BitVec.getLsbD_and, getLsbD_packIndexOnly, BitVec.getLsbD_append]
  interval_cases j <;> simp

theorem fields_shiftRotate :
    rField (op ++ packShiftRotate r a b k) = r ∧ lrField (op ++ packShiftRotate r a b k) = a ∧
      alField (op ++ packShiftRotate r a b k) = b ∧ countField (op ++ packShiftRotate r a b k) = k := by
  refine ⟨?_, ?_, ?_, ?_⟩
  · apply BitVec.eq_of_getLsbD_eq
    intro j hj
    simp only [rField, BitVec.getLsbD_extractLsb', getLsbD_packShiftRotate,
      BitVec.getLsbD_append]
    interval_cases j <;> simp
  · unfold lrField
    simp only [getLsbD_packShiftRotate, BitVec.getLsbD_append]
    simp
  · unfold alField
    simp only [getLsbD_packShiftRotate, BitVec.getLsbD_append]
    simp
  · apply BitVec.eq_of_getLsbD_eq
    intro j hj
    simp only [countField, BitVec.getLsbD_extractLsb', getLsbD_packShiftRotate,
      BitVec.getLsbD_append]
    interval_cases j <;> simp

theorem canonical_shiftRotate : Layout.canonical .shiftRotate (op ++ packShiftRotate r a b k) = true := by
  simp only [Layout.canonical, Layout.reservedMask, beq_iff_eq]
  apply BitVec.eq_of_getLsbD_eq
  intro j hj
  simp only [BitVec.getLsbD_and, getLsbD_packShiftRotate, BitVec.getLsbD_append]
  interval_cases j <;> simp

theorem fields_immediateOrPort :
    rField (op ++ packImmediateOrPort r v) = r ∧ addrField (op ++ packImmediateOrPort r v) = v := by
  refine ⟨?_, ?_⟩
  · apply BitVec.eq_of_getLsbD_eq
    intro j hj
    simp only [rField, BitVec.getLsbD_extractLsb', getLsbD_packImmediateOrPort,
      BitVec.getLsbD_append]
    interval_cases j <;> simp
  · apply BitVec.eq_of_getLsbD_eq
    intro j hj
    simp only [addrField, BitVec.getLsbD_extractLsb', getLsbD_packImmediateOrPort,
      BitVec.getLsbD_append]
    interval_cases j <;> simp

theorem canonical_immediateOrPort : Layout.canonical .immediateOrPort (op ++ packImmediateOrPort r v) = true := by
  simp only [Layout.canonical, Layout.reservedMask, beq_iff_eq]
  apply BitVec.eq_of_getLsbD_eq
  intro j hj
  simp only [BitVec.getLsbD_and, getLsbD_packImmediateOrPort, BitVec.getLsbD_append]
  interval_cases j <;> simp

theorem fields_registerRegister :
    rField (op ++ packRegisterRegister r ix) = r ∧
      ixField (op ++ packRegisterRegister r ix) = ix := by
  refine ⟨?_, ?_⟩
  · apply BitVec.eq_of_getLsbD_eq
    intro j hj
    simp only [rField, BitVec.getLsbD_extractLsb', getLsbD_packRegisterRegister,
      BitVec.getLsbD_append]
    interval_cases j <;> simp
  · apply BitVec.eq_of_getLsbD_eq
    intro j hj
    simp only [ixField, BitVec.getLsbD_extractLsb', getLsbD_packRegisterRegister,
      BitVec.getLsbD_append]
    interval_cases j <;> simp

theorem canonical_registerRegister : Layout.canonical .registerRegister (op ++ packRegisterRegister r ix) = true := by
  simp only [Layout.canonical, Layout.reservedMask, beq_iff_eq]
  apply BitVec.eq_of_getLsbD_eq
  intro j hj
  simp only [BitVec.getLsbD_and, getLsbD_packRegisterRegister, BitVec.getLsbD_append]
  interval_cases j <;> simp

theorem fields_registerOnly :
    rField (op ++ packRegisterOnly r) = r := by
  apply BitVec.eq_of_getLsbD_eq
  intro j hj
  simp only [rField, BitVec.getLsbD_extractLsb', getLsbD_packRegisterOnly,
    BitVec.getLsbD_append]
  interval_cases j <;> simp

theorem canonical_registerOnly : Layout.canonical .registerOnly (op ++ packRegisterOnly r) = true := by
  simp only [Layout.canonical, Layout.reservedMask, beq_iff_eq]
  apply BitVec.eq_of_getLsbD_eq
  intro j hj
  simp only [BitVec.getLsbD_and, getLsbD_packRegisterOnly, BitVec.getLsbD_append]
  interval_cases j <;> simp

theorem fields_ret :
    addrField (op ++ packReturn v) = v := by
  apply BitVec.eq_of_getLsbD_eq
  intro j hj
  simp only [addrField, BitVec.getLsbD_extractLsb', getLsbD_packReturn,
    BitVec.getLsbD_append]
  interval_cases j <;> simp

theorem canonical_ret : Layout.canonical .ret (op ++ packReturn v) = true := by
  simp only [Layout.canonical, Layout.reservedMask, beq_iff_eq]
  apply BitVec.eq_of_getLsbD_eq
  intro j hj
  simp only [BitVec.getLsbD_and, getLsbD_packReturn, BitVec.getLsbD_append]
  interval_cases j <;> simp

theorem fields_trapCode :
    countField (op ++ packTrapCode k) = k := by
  apply BitVec.eq_of_getLsbD_eq
  intro j hj
  simp only [countField, BitVec.getLsbD_extractLsb', getLsbD_packTrapCode,
    BitVec.getLsbD_append]
  interval_cases j <;> simp

theorem canonical_trapCode : Layout.canonical .trapCode (op ++ packTrapCode k) = true := by
  simp only [Layout.canonical, Layout.reservedMask, beq_iff_eq]
  apply BitVec.eq_of_getLsbD_eq
  intro j hj
  simp only [BitVec.getLsbD_and, getLsbD_packTrapCode, BitVec.getLsbD_append]
  interval_cases j <;> simp

theorem canonical_noOperand : Layout.canonical .noOperand (op ++ 0#10) = true := by
  simp only [Layout.canonical, Layout.reservedMask, beq_iff_eq]
  apply BitVec.eq_of_getLsbD_eq
  intro j hj
  simp only [BitVec.getLsbD_and, BitVec.getLsbD_append]
  interval_cases j <;> simp

end ReadBack

/-! ### The opcode lookup (R51, R69) -/

/-- Every mnemonic is in the table. -/
theorem Mnemonic.mem_all (m : Mnemonic) : m ∈ Mnemonic.all := by cases m <;> decide

/-- An injective assignment is looked up exactly. -/
theorem lookupOpcode_of_injective {opc : Mnemonic → BitVec 6} (h : Function.Injective opc)
    (m : Mnemonic) : lookupOpcode opc (opc m) = some m := by
  unfold lookupOpcode
  have hs : (Mnemonic.all.find? fun m' => opc m' == opc m).isSome = true :=
    List.find?_isSome.mpr ⟨m, m.mem_all, by simp⟩
  obtain ⟨m', hm'⟩ := Option.isSome_iff_exists.mp hs
  have e : opc m' = opc m := by simpa using List.find?_some hm'
  rw [hm', h e]

/-- A looked-up mnemonic has the opcode it was looked up by. -/
theorem lookupOpcode_some {opc : Mnemonic → BitVec 6} {op : BitVec 6} {m : Mnemonic}
    (h : lookupOpcode opc op = some m) : opc m = op := by
  simpa using List.find?_some h

/-- The decoder's answer is a mnemonic's reading or the unknown opcode value, never both (R69). -/
theorem decode_cases (opc : Mnemonic → BitVec 6) (w : Word) :
    (lookupOpcode opc (opField w) = none ∧ decode opc w = .unknown (opField w)) ∨
    (∃ m, lookupOpcode opc (opField w) = some m ∧
      decode opc w = .known (Instr.ofWord m w) (m.layout.canonical w)) := by
  unfold decode
  cases h : lookupOpcode opc (opField w) with
  | none => exact .inl ⟨rfl, rfl⟩
  | some m => exact .inr ⟨m, rfl, rfl⟩

/-- The instruction read under a mnemonic is one of that mnemonic. -/
@[simp] theorem Instr.mnemonic_ofWord (m : Mnemonic) (w : Word) : (Instr.ofWord m w).mnemonic = m := by
  cases m <;> rfl

end Sys2Proof
end

