-- ==== Sys2Proof/Laws/Operands.lean ====
section
/-! SUPPORT. The value of each shared arithmetic and flag function, said once over numbers. -/

namespace Sys2Proof.Machine

/-- Addition is the exact sum modulo 65536 (R150). -/
theorem addWrap_toNat (x y : Word) : (addWrap x y).toNat = (x.toNat + y.toNat) % 65536 := by
  unfold addWrap wrap16
  rw [← Nat.cast_add, BitVec.ofInt_natCast, BitVec.toNat_ofNat]

/-- Subtraction is that of bit vectors. -/
theorem subWrap_eq (x y : Word) : subWrap x y = x - y := by
  unfold subWrap wrap16
  apply BitVec.eq_of_toInt_eq
  rw [BitVec.toInt_sub, BitVec.toInt_ofInt]
  simp [BitVec.toInt_eq_toNat_bmod]

/-- Subtraction is the exact difference modulo 65536 (R150). -/
theorem subWrap_toNat (x y : Word) :
    (subWrap x y).toNat = (x.toNat + (65536 - y.toNat)) % 65536 := by
  rw [subWrap_eq, BitVec.toNat_sub]
  congr 1
  omega

/-- The two's complement reading is nonnegative up to 32767 (R137). -/
theorem isNonnegative_iff (x : Word) : isNonnegative x = true ↔ x.toNat ≤ 32767 := by
  have := x.isLt
  simp [isNonnegative, signed16, BitVec.toInt_eq_toNat_cond]
  split <;> omega

/-- The two's complement reading is positive from 1 to 32767 (R142). -/
theorem isPositive_iff (x : Word) : isPositive x = true ↔ 1 ≤ x.toNat ∧ x.toNat ≤ 32767 := by
  have := x.isLt
  simp [isPositive, signed16, BitVec.toInt_eq_toNat_cond]
  split <;> omega

/-- JCC compares numbers: the whole of CC and the selector (R138). -/
theorem ccMatches_iff (cc : Nibble) (sel : Reg) :
    ccMatches cc sel = true ↔ cc.toNat = sel.toNat := by
  revert cc sel
  decide

/-- The parity test of MLT and DVD (R157). -/
theorem oddField_iff (r : Reg) : oddField r = true ↔ r.toNat % 2 = 1 := by
  revert r
  decide

end Sys2Proof.Machine
end

