-- ==== Sys2Proof/Laws/PerInstr.lean ====
section
/-! SUPPORT. Facts about every instruction as syntax, one lemma per constructor of `Instr`. -/

namespace Sys2Proof.Laws

/-- The fields an instruction packs are the fields read back from its word, whatever the opcode
bits, and every reserved bit it packs is 0 (R54, R55, R69). -/
def PayloadReadBack.Statement (i : Instr) : Prop :=
  ∀ op : BitVec 6, Instr.ofWord i.mnemonic (op ++ i.payload) = i ∧
    i.mnemonic.layout.canonical (op ++ i.payload) = true

theorem PayloadReadBack.hlt : PayloadReadBack.Statement .hlt :=
  fun op => ⟨rfl, canonical_noOperand op⟩

theorem PayloadReadBack.trap (code : Nibble) :
    PayloadReadBack.Statement (.trap code) := fun op => by
  obtain h1 := fields_trapCode op code
  exact ⟨by simp only [Instr.mnemonic, Instr.payload, Instr.ofWord, h1],
    canonical_trapCode op code⟩

theorem PayloadReadBack.setcce : PayloadReadBack.Statement .setcce :=
  fun op => ⟨rfl, canonical_noOperand op⟩

theorem PayloadReadBack.ldr (r : Reg) (ix : IxSel) (i : Bool) (addr : Lit5) :
    PayloadReadBack.Statement (.ldr r ix i addr) := fun op => by
  obtain ⟨h1, h2, h3, h4⟩ := fields_standard op r ix i addr
  exact ⟨by simp only [Instr.mnemonic, Instr.payload, Instr.ofWord, h1, h2, h3, h4],
    canonical_standard op r ix i addr⟩

theorem PayloadReadBack.str (r : Reg) (ix : IxSel) (i : Bool) (addr : Lit5) :
    PayloadReadBack.Statement (.str r ix i addr) := fun op => by
  obtain ⟨h1, h2, h3, h4⟩ := fields_standard op r ix i addr
  exact ⟨by simp only [Instr.mnemonic, Instr.payload, Instr.ofWord, h1, h2, h3, h4],
    canonical_standard op r ix i addr⟩

theorem PayloadReadBack.lda (r : Reg) (ix : IxSel) (i : Bool) (addr : Lit5) :
    PayloadReadBack.Statement (.lda r ix i addr) := fun op => by
  obtain ⟨h1, h2, h3, h4⟩ := fields_standard op r ix i addr
  exact ⟨by simp only [Instr.mnemonic, Instr.payload, Instr.ofWord, h1, h2, h3, h4],
    canonical_standard op r ix i addr⟩

theorem PayloadReadBack.ldx (ix : IxSel) (i : Bool) (addr : Lit5) :
    PayloadReadBack.Statement (.ldx ix i addr) := fun op => by
  obtain ⟨h1, h2, h3⟩ := fields_indexOnly op ix i addr
  exact ⟨by simp only [Instr.mnemonic, Instr.payload, Instr.ofWord, h1, h2, h3],
    canonical_indexOnly op ix i addr⟩

theorem PayloadReadBack.stx (ix : IxSel) (i : Bool) (addr : Lit5) :
    PayloadReadBack.Statement (.stx ix i addr) := fun op => by
  obtain ⟨h1, h2, h3⟩ := fields_indexOnly op ix i addr
  exact ⟨by simp only [Instr.mnemonic, Instr.payload, Instr.ofWord, h1, h2, h3],
    canonical_indexOnly op ix i addr⟩

theorem PayloadReadBack.jz (r : Reg) (ix : IxSel) (i : Bool) (addr : Lit5) :
    PayloadReadBack.Statement (.jz r ix i addr) := fun op => by
  obtain ⟨h1, h2, h3, h4⟩ := fields_standard op r ix i addr
  exact ⟨by simp only [Instr.mnemonic, Instr.payload, Instr.ofWord, h1, h2, h3, h4],
    canonical_standard op r ix i addr⟩

theorem PayloadReadBack.jne (r : Reg) (ix : IxSel) (i : Bool) (addr : Lit5) :
    PayloadReadBack.Statement (.jne r ix i addr) := fun op => by
  obtain ⟨h1, h2, h3, h4⟩ := fields_standard op r ix i addr
  exact ⟨by simp only [Instr.mnemonic, Instr.payload, Instr.ofWord, h1, h2, h3, h4],
    canonical_standard op r ix i addr⟩

theorem PayloadReadBack.jcc (r : Reg) (ix : IxSel) (i : Bool) (addr : Lit5) :
    PayloadReadBack.Statement (.jcc r ix i addr) := fun op => by
  obtain ⟨h1, h2, h3, h4⟩ := fields_standard op r ix i addr
  exact ⟨by simp only [Instr.mnemonic, Instr.payload, Instr.ofWord, h1, h2, h3, h4],
    canonical_standard op r ix i addr⟩

theorem PayloadReadBack.jma (ix : IxSel) (i : Bool) (addr : Lit5) :
    PayloadReadBack.Statement (.jma ix i addr) := fun op => by
  obtain ⟨h1, h2, h3⟩ := fields_indexOnly op ix i addr
  exact ⟨by simp only [Instr.mnemonic, Instr.payload, Instr.ofWord, h1, h2, h3],
    canonical_indexOnly op ix i addr⟩

theorem PayloadReadBack.jsr (ix : IxSel) (i : Bool) (addr : Lit5) :
    PayloadReadBack.Statement (.jsr ix i addr) := fun op => by
  obtain ⟨h1, h2, h3⟩ := fields_indexOnly op ix i addr
  exact ⟨by simp only [Instr.mnemonic, Instr.payload, Instr.ofWord, h1, h2, h3],
    canonical_indexOnly op ix i addr⟩

theorem PayloadReadBack.rfs (addr : Lit5) :
    PayloadReadBack.Statement (.rfs addr) := fun op => by
  obtain h1 := fields_ret op addr
  exact ⟨by simp only [Instr.mnemonic, Instr.payload, Instr.ofWord, h1],
    canonical_ret op addr⟩

theorem PayloadReadBack.sob (r : Reg) (ix : IxSel) (i : Bool) (addr : Lit5) :
    PayloadReadBack.Statement (.sob r ix i addr) := fun op => by
  obtain ⟨h1, h2, h3, h4⟩ := fields_standard op r ix i addr
  exact ⟨by simp only [Instr.mnemonic, Instr.payload, Instr.ofWord, h1, h2, h3, h4],
    canonical_standard op r ix i addr⟩

theorem PayloadReadBack.jge (r : Reg) (ix : IxSel) (i : Bool) (addr : Lit5) :
    PayloadReadBack.Statement (.jge r ix i addr) := fun op => by
  obtain ⟨h1, h2, h3, h4⟩ := fields_standard op r ix i addr
  exact ⟨by simp only [Instr.mnemonic, Instr.payload, Instr.ofWord, h1, h2, h3, h4],
    canonical_standard op r ix i addr⟩

theorem PayloadReadBack.amr (r : Reg) (ix : IxSel) (i : Bool) (addr : Lit5) :
    PayloadReadBack.Statement (.amr r ix i addr) := fun op => by
  obtain ⟨h1, h2, h3, h4⟩ := fields_standard op r ix i addr
  exact ⟨by simp only [Instr.mnemonic, Instr.payload, Instr.ofWord, h1, h2, h3, h4],
    canonical_standard op r ix i addr⟩

theorem PayloadReadBack.smr (r : Reg) (ix : IxSel) (i : Bool) (addr : Lit5) :
    PayloadReadBack.Statement (.smr r ix i addr) := fun op => by
  obtain ⟨h1, h2, h3, h4⟩ := fields_standard op r ix i addr
  exact ⟨by simp only [Instr.mnemonic, Instr.payload, Instr.ofWord, h1, h2, h3, h4],
    canonical_standard op r ix i addr⟩

theorem PayloadReadBack.air (r : Reg) (value : Lit5) :
    PayloadReadBack.Statement (.air r value) := fun op => by
  obtain ⟨h1, h2⟩ := fields_immediateOrPort op r value
  exact ⟨by simp only [Instr.mnemonic, Instr.payload, Instr.ofWord, h1, h2],
    canonical_immediateOrPort op r value⟩

theorem PayloadReadBack.sir (r : Reg) (value : Lit5) :
    PayloadReadBack.Statement (.sir r value) := fun op => by
  obtain ⟨h1, h2⟩ := fields_immediateOrPort op r value
  exact ⟨by simp only [Instr.mnemonic, Instr.payload, Instr.ofWord, h1, h2],
    canonical_immediateOrPort op r value⟩

theorem PayloadReadBack.mlt (rx ry : Reg) :
    PayloadReadBack.Statement (.mlt rx ry) := fun op => by
  obtain ⟨h1, h2⟩ := fields_registerRegister op rx ry
  exact ⟨by simp only [Instr.mnemonic, Instr.payload, Instr.ofWord, h1, h2],
    canonical_registerRegister op rx ry⟩

theorem PayloadReadBack.dvd (rx ry : Reg) :
    PayloadReadBack.Statement (.dvd rx ry) := fun op => by
  obtain ⟨h1, h2⟩ := fields_registerRegister op rx ry
  exact ⟨by simp only [Instr.mnemonic, Instr.payload, Instr.ofWord, h1, h2],
    canonical_registerRegister op rx ry⟩

theorem PayloadReadBack.trr (rx ry : Reg) :
    PayloadReadBack.Statement (.trr rx ry) := fun op => by
  obtain ⟨h1, h2⟩ := fields_registerRegister op rx ry
  exact ⟨by simp only [Instr.mnemonic, Instr.payload, Instr.ofWord, h1, h2],
    canonical_registerRegister op rx ry⟩

theorem PayloadReadBack.and (rx ry : Reg) :
    PayloadReadBack.Statement (.and rx ry) := fun op => by
  obtain ⟨h1, h2⟩ := fields_registerRegister op rx ry
  exact ⟨by simp only [Instr.mnemonic, Instr.payload, Instr.ofWord, h1, h2],
    canonical_registerRegister op rx ry⟩

theorem PayloadReadBack.orr (rx ry : Reg) :
    PayloadReadBack.Statement (.orr rx ry) := fun op => by
  obtain ⟨h1, h2⟩ := fields_registerRegister op rx ry
  exact ⟨by simp only [Instr.mnemonic, Instr.payload, Instr.ofWord, h1, h2],
    canonical_registerRegister op rx ry⟩

theorem PayloadReadBack.not (r : Reg) :
    PayloadReadBack.Statement (.not r) := fun op => by
  obtain h1 := fields_registerOnly op r
  exact ⟨by simp only [Instr.mnemonic, Instr.payload, Instr.ofWord, h1],
    canonical_registerOnly op r⟩

theorem PayloadReadBack.src (r : Reg) (lr al : Bool) (count : Nibble) :
    PayloadReadBack.Statement (.src r lr al count) := fun op => by
  obtain ⟨h1, h2, h3, h4⟩ := fields_shiftRotate op r lr al count
  exact ⟨by simp only [Instr.mnemonic, Instr.payload, Instr.ofWord, h1, h2, h3, h4],
    canonical_shiftRotate op r lr al count⟩

theorem PayloadReadBack.rrc (r : Reg) (lr al : Bool) (count : Nibble) :
    PayloadReadBack.Statement (.rrc r lr al count) := fun op => by
  obtain ⟨h1, h2, h3, h4⟩ := fields_shiftRotate op r lr al count
  exact ⟨by simp only [Instr.mnemonic, Instr.payload, Instr.ofWord, h1, h2, h3, h4],
    canonical_shiftRotate op r lr al count⟩

theorem PayloadReadBack.inp (r : Reg) (value : Lit5) :
    PayloadReadBack.Statement (.inp r value) := fun op => by
  obtain ⟨h1, h2⟩ := fields_immediateOrPort op r value
  exact ⟨by simp only [Instr.mnemonic, Instr.payload, Instr.ofWord, h1, h2],
    canonical_immediateOrPort op r value⟩

theorem PayloadReadBack.out (r : Reg) (value : Lit5) :
    PayloadReadBack.Statement (.out r value) := fun op => by
  obtain ⟨h1, h2⟩ := fields_immediateOrPort op r value
  exact ⟨by simp only [Instr.mnemonic, Instr.payload, Instr.ofWord, h1, h2],
    canonical_immediateOrPort op r value⟩

theorem PayloadReadBack.chk (r : Reg) (value : Lit5) :
    PayloadReadBack.Statement (.chk r value) := fun op => by
  obtain ⟨h1, h2⟩ := fields_immediateOrPort op r value
  exact ⟨by simp only [Instr.mnemonic, Instr.payload, Instr.ofWord, h1, h2],
    canonical_immediateOrPort op r value⟩

theorem PayloadReadBack.fadd (r : Reg) (ix : IxSel) (i : Bool) (addr : Lit5) :
    PayloadReadBack.Statement (.fadd r ix i addr) := fun op => by
  obtain ⟨h1, h2, h3, h4⟩ := fields_standard op r ix i addr
  exact ⟨by simp only [Instr.mnemonic, Instr.payload, Instr.ofWord, h1, h2, h3, h4],
    canonical_standard op r ix i addr⟩

theorem PayloadReadBack.fsub (r : Reg) (ix : IxSel) (i : Bool) (addr : Lit5) :
    PayloadReadBack.Statement (.fsub r ix i addr) := fun op => by
  obtain ⟨h1, h2, h3, h4⟩ := fields_standard op r ix i addr
  exact ⟨by simp only [Instr.mnemonic, Instr.payload, Instr.ofWord, h1, h2, h3, h4],
    canonical_standard op r ix i addr⟩

theorem PayloadReadBack.vadd (r : Reg) (ix : IxSel) (i : Bool) (addr : Lit5) :
    PayloadReadBack.Statement (.vadd r ix i addr) := fun op => by
  obtain ⟨h1, h2, h3, h4⟩ := fields_standard op r ix i addr
  exact ⟨by simp only [Instr.mnemonic, Instr.payload, Instr.ofWord, h1, h2, h3, h4],
    canonical_standard op r ix i addr⟩

theorem PayloadReadBack.vsub (r : Reg) (ix : IxSel) (i : Bool) (addr : Lit5) :
    PayloadReadBack.Statement (.vsub r ix i addr) := fun op => by
  obtain ⟨h1, h2, h3, h4⟩ := fields_standard op r ix i addr
  exact ⟨by simp only [Instr.mnemonic, Instr.payload, Instr.ofWord, h1, h2, h3, h4],
    canonical_standard op r ix i addr⟩

theorem PayloadReadBack.cnvrt (r : Reg) (ix : IxSel) (i : Bool) (addr : Lit5) :
    PayloadReadBack.Statement (.cnvrt r ix i addr) := fun op => by
  obtain ⟨h1, h2, h3, h4⟩ := fields_standard op r ix i addr
  exact ⟨by simp only [Instr.mnemonic, Instr.payload, Instr.ofWord, h1, h2, h3, h4],
    canonical_standard op r ix i addr⟩

theorem PayloadReadBack.ldfr (r : Reg) (ix : IxSel) (i : Bool) (addr : Lit5) :
    PayloadReadBack.Statement (.ldfr r ix i addr) := fun op => by
  obtain ⟨h1, h2, h3, h4⟩ := fields_standard op r ix i addr
  exact ⟨by simp only [Instr.mnemonic, Instr.payload, Instr.ofWord, h1, h2, h3, h4],
    canonical_standard op r ix i addr⟩

theorem PayloadReadBack.stfr (r : Reg) (ix : IxSel) (i : Bool) (addr : Lit5) :
    PayloadReadBack.Statement (.stfr r ix i addr) := fun op => by
  obtain ⟨h1, h2, h3, h4⟩ := fields_standard op r ix i addr
  exact ⟨by simp only [Instr.mnemonic, Instr.payload, Instr.ofWord, h1, h2, h3, h4],
    canonical_standard op r ix i addr⟩

end Sys2Proof.Laws
end

