-- ==== Sys2Proof/Tests/Slice0.lean ====
section
/-! SUPPORT. Tests. Expected results are the spec's own vectors: ids V-… are rows of
spec/96_step_vectors.md, E… of 95_test_vectors.md 2.4, H… of 2.7, A… of 2.8, and words of the
encoding tests are written out from the bit layouts of R55 to R65. -/

namespace Sys2Proof.Tests

open Sys2Proof.Machine

/-! ### Well-formedness: one ill-formed term for each check -/

theorem test_ldx_without_register_refused : (Instr.ldx 0 false 5).wellFormed = false := by decide
theorem test_stx_without_register_refused : (Instr.stx 0 false 5).wellFormed = false := by decide
theorem test_ldx_with_register_accepted : (Instr.ldx 1 true 5).wellFormed = true := by decide

/-! ### Decoding: a word written out bit by bit for every constructor -/

theorem test_decode_hlt : decode standardOpc 0b0000000000000000 = .known (.hlt) true := by decide
theorem test_decode_trap : decode standardOpc 0b0110000000000101 = .known (.trap 5) true := by decide
theorem test_decode_setcce : decode standardOpc 0b1001000000000000 = .known (.setcce) true := by decide
theorem test_decode_ldr : decode standardOpc 0b0000011100001111 = .known (.ldr 3 0 false 15) true := by decide
theorem test_decode_str : decode standardOpc 0b0000101001100111 = .known (.str 2 1 true 7) true := by decide
theorem test_decode_lda : decode standardOpc 0b0000110100000101 = .known (.lda 1 0 false 5) true := by decide
theorem test_decode_ldx : decode standardOpc 0b1000010010101010 = .known (.ldx 2 true 10) true := by decide
theorem test_decode_stx : decode standardOpc 0b1000100011000100 = .known (.stx 3 false 4) true := by decide
theorem test_decode_jz : decode standardOpc 0b0010000010001100 = .known (.jz 0 2 false 12) true := by decide
theorem test_decode_jne : decode standardOpc 0b0010010100000100 = .known (.jne 1 0 false 4) true := by decide
theorem test_decode_jcc : decode standardOpc 0b0010101100000110 = .known (.jcc 3 0 false 6) true := by decide
theorem test_decode_jma : decode standardOpc 0b0010110010100000 = .known (.jma 2 true 0) true := by decide
theorem test_decode_jsr : decode standardOpc 0b0011000000001010 = .known (.jsr 0 false 10) true := by decide
theorem test_decode_rfs : decode standardOpc 0b0011010000000111 = .known (.rfs 7) true := by decide
theorem test_decode_sob : decode standardOpc 0b0011100100000010 = .known (.sob 1 0 false 2) true := by decide
theorem test_decode_jge : decode standardOpc 0b0011111100001001 = .known (.jge 3 0 false 9) true := by decide
theorem test_decode_amr : decode standardOpc 0b0001000000110101 = .known (.amr 0 0 true 21) true := by decide
theorem test_decode_smr : decode standardOpc 0b0001011000010001 = .known (.smr 2 0 false 17) true := by decide
theorem test_decode_air : decode standardOpc 0b0001100100000011 = .known (.air 1 3) true := by decide
theorem test_decode_sir : decode standardOpc 0b0001111000000101 = .known (.sir 2 5) true := by decide
theorem test_decode_mlt : decode standardOpc 0b0100000010000000 = .known (.mlt 0 2) true := by decide
theorem test_decode_dvd : decode standardOpc 0b0100011000000000 = .known (.dvd 2 0) true := by decide
theorem test_decode_trr : decode standardOpc 0b0100100001000000 = .known (.trr 0 1) true := by decide
theorem test_decode_and : decode standardOpc 0b0100111011000000 = .known (.and 2 3) true := by decide
theorem test_decode_orr : decode standardOpc 0b0101001100000000 = .known (.orr 3 0) true := by decide
theorem test_decode_not : decode standardOpc 0b0101011100000000 = .known (.not 3) true := by decide
theorem test_decode_src : decode standardOpc 0b0110011001000011 = .known (.src 2 false true 3) true := by decide
theorem test_decode_rrc : decode standardOpc 0b0110101110000100 = .known (.rrc 3 true false 4) true := by decide
theorem test_decode_inp : decode standardOpc 0b1100011000011111 = .known (.inp 2 31) true := by decide
theorem test_decode_out : decode standardOpc 0b1100100100000001 = .known (.out 1 1) true := by decide
theorem test_decode_chk : decode standardOpc 0b1100111100000010 = .known (.chk 3 2) true := by decide
theorem test_decode_fadd : decode standardOpc 0b0110110001001000 = .known (.fadd 0 1 false 8) true := by decide
theorem test_decode_fsub : decode standardOpc 0b0111000100101001 = .known (.fsub 1 0 true 9) true := by decide
theorem test_decode_vadd : decode standardOpc 0b0111010000001010 = .known (.vadd 0 0 false 10) true := by decide
theorem test_decode_vsub : decode standardOpc 0b0111100110001011 = .known (.vsub 1 2 false 11) true := by decide
theorem test_decode_cnvrt : decode standardOpc 0b0111110000001100 = .known (.cnvrt 0 0 false 12) true := by decide
theorem test_decode_ldfr : decode standardOpc 0b1010000100001101 = .known (.ldfr 1 0 false 13) true := by decide
theorem test_decode_stfr : decode standardOpc 0b1010010011101110 = .known (.stfr 0 3 true 14) true := by decide

/-- Reserved bits are reported and not read: SRC 1,2,1,1 with bits 5:4 set (table 2.3). -/
theorem test_decode_not_canonical :
    decode standardOpc 0x65F2 = .known (.src 1 true true 2) false := by decide
theorem test_decode_unassigned : decode standardOpc 0x5800 = .unknown 22 := by decide
/-- The source's worked word (S5). -/
theorem test_encode_lda : encode standardOpc (.lda 1 0 false 5) = 0x0D05 := by decide
theorem test_decodeTableWord : decodeTableWord 16 0xA4EE = some (.stfr 0 3 true 14) := by decide
/-- R9's conditions on the standard parameters. -/
theorem test_standard_opc_injective : ∀ m ∈ Mnemonic.all, ∀ n ∈ Mnemonic.all,
    standardOpc m = standardOpc n → m = n := by decide

/-! ### One step -/

/-- A ready machine at `pc` with the given words of memory. -/
def at' (pc : Addr) (words : List (Nat × Word)) : State :=
  { State.reset with pc := pc, mem := words.foldl (fun m p => m.write p.1 p.2) [] }

/-- The next state, if the outcome is one. -/
def nextOf : Outcome → Option State
  | .next t => some t
  | _ => none

/-- The registers a step vector names most. -/
structure Brief where
  run : RunState
  pc : Addr
  mfr : Nibble
  mar : Addr
  mbr : Word
  ir : Word
  deriving DecidableEq, Repr

/-- Those registers of a state. -/
def brief (t : State) : Brief := ⟨t.run, t.pc, t.mfr, t.mar, t.mbr, t.ir⟩

/-- The result of one step, seen through `f`. -/
def stepped (s : State) (f : State → α) : Option α := (nextOf (step s)).map f

/-- V-C1. -/
theorem test_zero_word_halts :
    stepped ((at' 10 [(10, 0x0)]).writeGpr 1 0x7)
      (fun t => (brief t, t.readGpr 1)) =
      some (⟨.halted, 10, 0, 0, 0x0, 0x0⟩, 0x7) := by decide

/-- V-C2. -/
theorem test_hlt_low_bits :
    stepped (at' 9 [(9, 0x5)])
      brief =
      some ⟨.halted, 9, 0, 9, 0x5, 0x5⟩ := by decide

/-- V-C4. -/
theorem test_trap :
    stepped (at' 10 [(10, 0x6005)])
      brief =
      some ⟨.faulted, 10, 4, 10, 0x6005, 0x6005⟩ := by decide

/-- V-C5. -/
theorem test_setcce :
    stepped ((at' 10 [(10, 0x9000)]).setCc 8)
      (fun t => (brief t, t.cc)) =
      some (⟨.faulted, 10, 4, 10, 0x9000, 0x9000⟩, 8) := by decide

/-- V-C7. -/
theorem test_unassigned :
    stepped (at' 2047 [(2047, 0xffff)])
      brief =
      some ⟨.faulted, 2047, 4, 2047, 0xffff, 0xffff⟩ := by decide

/-- V-C3. -/
theorem test_strict_reserved :
    (nextOf (stepIn { Config.standard with strictReserved := true } (at' 9 [(9, 0x5)]))).map
      brief =
      some ⟨.faulted, 9, 4, 9, 0x5, 0x5⟩ := by decide

/-- V-C9. -/
theorem test_sentinel_guard :
    (nextOf (stepIn { Config.standard with sentinelGuard := true } (at' 10 [(10, 0x400), (0, 0x1234)]))).map
      brief =
      some ⟨.faulted, 10, 4, 10, 0x400, 0x400⟩ := by decide

/-- V-L4. -/
theorem test_ldr_indexed_indirect :
    stepped ((at' 10 [(10, 0x5a5), (105, 0x12c), (300, 0x7777)]).writeIxr 2 0x64)
      (fun t => (brief t, t.readGpr 1)) =
      some (⟨.ready, 11, 0, 300, 0x7777, 0x5a5⟩, 0x7777) := by decide

/-- V-L7. -/
theorem test_ldr_pointer_out_of_range :
    stepped ((at' 10 [(10, 0x525), (5, 0x800)]).writeGpr 1 0x9)
      (fun t => (brief t, t.readGpr 1)) =
      some (⟨.faulted, 10, 8, 10, 0x525, 0x525⟩, 9) := by decide

/-- V-L11. -/
theorem test_str_indexed_indirect :
    stepped (((at' 10 [(10, 0xa67), (107, 0xc8)]).writeGpr 2 0x34).writeIxr 1 0x64)
      (fun t => (brief t, t.readMem 200, t.readMem 107)) =
      some (⟨.ready, 11, 0, 200, 0x34, 0xa67⟩, 0x34, 200) := by decide

/-- V-L12. -/
theorem test_str_over_itself :
    stepped ((at' 10 [(10, 0x90a)]).writeGpr 1 0x0)
      (fun t => (brief t, t.readMem 10)) =
      some (⟨.ready, 11, 0, 10, 0x0, 0x90a⟩, 0) := by decide

/-- V-L15. -/
theorem test_lda_indexed_indirect_bit :
    stepped ((at' 10 [(10, 0xeff), (1031, 0x4d)]).writeIxr 3 0x3e8)
      (fun t => (brief t, t.readGpr 2)) =
      some (⟨.ready, 11, 0, 10, 0xeff, 0xeff⟩, 0x407) := by decide

/-- V-L16. -/
theorem test_lda_wraps :
    stepped ((at' 10 [(10, 0xedf)]).writeIxr 3 0xffff)
      (fun t => (brief t, t.readGpr 2)) =
      some (⟨.ready, 11, 0, 10, 0xedf, 0xedf⟩, 0x1E) := by decide

/-- V-L19. -/
theorem test_ldx_indexed_by_itself :
    stepped ((at' 10 [(10, 0x8454), (20, 0x1), (24, 0x64)]).writeIxr 1 0x4)
      (fun t => (brief t, t.readIxr 1)) =
      some (⟨.ready, 11, 0, 24, 0x64, 0x8454⟩, 100) := by decide

/-- V-L21. -/
theorem test_ldx_without_register :
    stepped (at' 10 [(10, 0x8414), (20, 0x64)])
      brief =
      some ⟨.faulted, 10, 4, 10, 0x8414, 0x8414⟩ := by decide

/-- V-L23. -/
theorem test_stx_indexed_by_itself :
    stepped ((at' 10 [(10, 0x8856)]).writeIxr 1 0x64)
      (fun t => (brief t, t.readMem 122)) =
      some (⟨.ready, 11, 0, 122, 0x64, 0x8856⟩, 100) := by decide

/-- V-L24. -/
theorem test_stx_without_register :
    stepped (at' 10 [(10, 0x8804)])
      brief =
      some ⟨.faulted, 10, 4, 10, 0x8804, 0x8804⟩ := by decide

/-- V-T3. -/
theorem test_jz_untaken_address_fault :
    stepped (((at' 10 [(10, 0x208c)]).writeGpr 0 0x1).writeIxr 2 0xbb8)
      brief =
      some ⟨.faulted, 10, 8, 10, 0x208c, 0x208c⟩ := by decide

/-- V-T4. -/
theorem test_jz_taken_at_end :
    stepped (at' 2047 [(2047, 0x200c)])
      brief =
      some ⟨.ready, 12, 0, 2047, 0x200c, 0x200c⟩ := by decide

/-- V-T6. -/
theorem test_jne_taken :
    stepped ((at' 10 [(10, 0x2504)]).writeGpr 1 0x8000)
      brief =
      some ⟨.ready, 4, 0, 10, 0x2504, 0x2504⟩ := by decide

/-- V-T7. -/
theorem test_jne_not_taken :
    stepped (at' 10 [(10, 0x2504)])
      brief =
      some ⟨.ready, 11, 0, 10, 0x2504, 0x2504⟩ := by decide

/-- V-T9. -/
theorem test_jge_positive :
    stepped ((at' 10 [(10, 0x3f09)]).writeGpr 3 0x7fff)
      brief =
      some ⟨.ready, 9, 0, 10, 0x3f09, 0x3f09⟩ := by decide

/-- V-T10. -/
theorem test_jge_negative :
    stepped ((at' 10 [(10, 0x3f09)]).writeGpr 3 0x8000)
      brief =
      some ⟨.ready, 11, 0, 10, 0x3f09, 0x3f09⟩ := by decide

/-- V-T13. -/
theorem test_jcc_equal :
    stepped ((at' 10 [(10, 0x2b06)]).setCc 3)
      brief =
      some ⟨.ready, 6, 0, 10, 0x2b06, 0x2b06⟩ := by decide

/-- V-T14. -/
theorem test_jcc_whole_register :
    stepped ((at' 10 [(10, 0x2b06)]).setCc 8)
      brief =
      some ⟨.ready, 11, 0, 10, 0x2b06, 0x2b06⟩ := by decide

/-- V-T17. -/
theorem test_jma_indexed :
    stepped ((at' 10 [(10, 0x2c81)]).writeIxr 2 0x3e7)
      brief =
      some ⟨.ready, 1000, 0, 10, 0x2c81, 0x2c81⟩ := by decide

/-- V-T18. -/
theorem test_jma_indirect :
    stepped (at' 10 [(10, 0x2c25), (5, 0x7ff)])
      brief =
      some ⟨.ready, 2047, 0, 5, 0x7ff, 0x2c25⟩ := by decide

/-- V-T20. -/
theorem test_jsr_link_at_end :
    stepped (at' 2047 [(2047, 0x300a)])
      (fun t => (brief t, t.readGpr 3)) =
      some (⟨.ready, 10, 0, 2047, 0x300a, 0x300a⟩, 2048) := by decide

/-- V-T21. -/
theorem test_jsr_fault_keeps_link :
    stepped (((at' 10 [(10, 0x3040)]).writeGpr 3 0x7).writeIxr 1 0x800)
      (fun t => (brief t, t.readGpr 3)) =
      some (⟨.faulted, 10, 8, 10, 0x3040, 0x3040⟩, 7) := by decide

/-- V-T22. -/
theorem test_rfs :
    stepped (((at' 12 [(12, 0x3407)]).writeGpr 0 0x1111).writeGpr 3 0x2)
      (fun t => (brief t, t.readGpr 0)) =
      some (⟨.ready, 2, 0, 12, 0x3407, 0x3407⟩, 7) := by decide

/-- V-T23. -/
theorem test_rfs_out_of_range :
    stepped ((at' 12 [(12, 0x3405)]).writeGpr 3 0x800)
      (fun t => (brief t, t.readGpr 0)) =
      some (⟨.faulted, 12, 8, 12, 0x3405, 0x3405⟩, 0) := by decide

/-- V-T28. -/
theorem test_sob_most_negative :
    stepped ((at' 10 [(10, 0x3902)]).writeGpr 1 0x8000)
      (fun t => (brief t, t.readGpr 1)) =
      some (⟨.ready, 2, 0, 10, 0x3902, 0x3902⟩, 0x7FFF) := by decide

/-- V-T30. -/
theorem test_sob_fault_keeps_register :
    stepped ((at' 2047 [(2047, 0x3902)]).writeGpr 1 0x1)
      (fun t => (brief t, t.readGpr 1)) =
      some (⟨.faulted, 2047, 8, 2047, 0x3902, 0x3902⟩, 1) := by decide

/-- V-A2. -/
theorem test_amr_wraps :
    stepped ((at' 10 [(10, 0x1015), (21, 0x1)]).writeGpr 0 0xffff)
      (fun t => (brief t, t.readGpr 0, t.cc)) =
      some (⟨.ready, 11, 0, 21, 0x1, 0x1015⟩, 0, 0) := by decide

/-- V-A4. -/
theorem test_amr_indirect :
    stepped ((at' 10 [(10, 0x1035), (21, 0x190), (400, 0x2)]).writeGpr 0 0x1)
      (fun t => (brief t, t.readGpr 0)) =
      some (⟨.ready, 11, 0, 400, 0x2, 0x1035⟩, 3) := by decide

/-- V-A5. -/
theorem test_smr_borrows :
    stepped ((at' 10 [(10, 0x1611), (17, 0x7)]).writeGpr 2 0x5)
      (fun t => (brief t, t.readGpr 2)) =
      some (⟨.ready, 11, 0, 17, 0x7, 0x1611⟩, 0xFFFE) := by decide

/-- V-A7. -/
theorem test_smr_signed_overflow :
    stepped ((at' 10 [(10, 0x1611), (17, 0x1)]).writeGpr 2 0x8000)
      (fun t => (brief t, t.readGpr 2)) =
      some (⟨.ready, 11, 0, 17, 0x1, 0x1611⟩, 0x7FFF) := by decide

/-- V-A8. -/
theorem test_air_wraps :
    stepped ((at' 10 [(10, 0x181f)]).writeGpr 0 0xfff0)
      (fun t => (brief t, t.readGpr 0)) =
      some (⟨.ready, 11, 0, 10, 0x181f, 0x181f⟩, 0xF) := by decide

/-- V-A12. -/
theorem test_air_at_end :
    stepped ((at' 2047 [(2047, 0x1801)]).writeGpr 0 0x1)
      (fun t => (brief t, t.readGpr 0)) =
      some (⟨.faulted, 2047, 8, 2047, 0x1801, 0x1801⟩, 1) := by decide

/-- V-A11. -/
theorem test_sir_borrows :
    stepped (at' 10 [(10, 0x1e05)])
      (fun t => (brief t, t.readGpr 2)) =
      some (⟨.ready, 11, 0, 10, 0x1e05, 0x1e05⟩, 0xFFFB) := by decide

/-- V-A15. -/
theorem test_mlt_most_negative_square :
    stepped ((((at' 10 [(10, 0x4200)]).writeGpr 0 0x8000).writeGpr 2 0x8000).writeGpr 3 0x9)
      (fun t => (brief t, t.readGpr 2, t.readGpr 3)) =
      some (⟨.ready, 11, 0, 10, 0x4200, 0x4200⟩, 0x4000, 0) := by decide

/-- V-A14. -/
theorem test_mlt_negative :
    stepped (((at' 10 [(10, 0x4080)]).writeGpr 0 0xffff).writeGpr 2 0x2)
      (fun t => (brief t, t.readGpr 0, t.readGpr 1)) =
      some (⟨.ready, 11, 0, 10, 0x4080, 0x4080⟩, 0xFFFF, 0xFFFE) := by decide

/-- V-A21. -/
theorem test_dvd_rounds_to_zero :
    stepped (((at' 10 [(10, 0x4480)]).writeGpr 0 0xffef).writeGpr 2 0x5)
      (fun t => (brief t, t.readGpr 0, t.readGpr 1)) =
      some (⟨.ready, 11, 0, 10, 0x4480, 0x4480⟩, 0xFFFD, 0xFFFE) := by decide

/-- V-A28. -/
theorem test_dvd_zero_at_end :
    stepped ((at' 2047 [(2047, 0x4480)]).writeGpr 0 0x5)
      (fun t => (brief t, t.readGpr 0)) =
      some (⟨.faulted, 2047, 1, 2047, 0x4480, 0x4480⟩, 5) := by decide

/-- V-G4. -/
theorem test_trr_equal :
    stepped ((((at' 10 [(10, 0x4840)]).writeGpr 0 0x5).writeGpr 1 0x5).setCc 3)
      (fun t => (brief t, t.cc)) =
      some (⟨.ready, 11, 0, 10, 0x4840, 0x4840⟩, 11) := by decide

/-- V-G5. -/
theorem test_trr_unequal :
    stepped ((((at' 10 [(10, 0x4840)]).writeGpr 0 0x5).writeGpr 1 0x6).setCc 11)
      (fun t => (brief t, t.cc)) =
      some (⟨.ready, 11, 0, 10, 0x4840, 0x4840⟩, 3) := by decide

/-- V-G6. -/
theorem test_and :
    stepped (((at' 10 [(10, 0x4ec0)]).writeGpr 2 0x1234).writeGpr 3 0xff)
      (fun t => (brief t, t.readGpr 2, t.readGpr 3)) =
      some (⟨.ready, 11, 0, 10, 0x4ec0, 0x4ec0⟩, 0x34, 0xFF) := by decide

/-- V-G9. -/
theorem test_orr :
    stepped (((at' 10 [(10, 0x5040)]).writeGpr 0 0xf0).writeGpr 1 0xf00)
      (fun t => (brief t, t.readGpr 0)) =
      some (⟨.ready, 11, 0, 10, 0x5040, 0x5040⟩, 0xFF0) := by decide

/-- V-G14. -/
theorem test_not_reserved_bits :
    stepped ((at' 10 [(10, 0x57ff)]).writeGpr 3 0x1)
      (fun t => (brief t, t.readGpr 3)) =
      some (⟨.ready, 11, 0, 10, 0x57ff, 0x57ff⟩, 0xFFFE) := by decide

/-- V-S2. -/
theorem test_src_arithmetic_right :
    stepped ((at' 10 [(10, 0x6403)]).writeGpr 0 0xff00)
      (fun t => (brief t, t.readGpr 0)) =
      some (⟨.ready, 11, 0, 10, 0x6403, 0x6403⟩, 0xFFE0) := by decide

/-- V-S16. -/
theorem test_src_left_reserved_bits :
    stepped ((at' 10 [(10, 0x65f2)]).writeGpr 1 0xa)
      (fun t => (brief t, t.readGpr 1)) =
      some (⟨.ready, 11, 0, 10, 0x65f2, 0x65f2⟩, 0x28) := by decide

/-- V-S11. -/
theorem test_rrc_right :
    stepped ((at' 10 [(10, 0x6b44)]).writeGpr 3 0x1234)
      (fun t => (brief t, t.readGpr 3)) =
      some (⟨.ready, 11, 0, 10, 0x6b44, 0x6b44⟩, 0x4123) := by decide

/-- V-S13. -/
theorem test_rrc_left :
    stepped ((at' 10 [(10, 0x68cf)]).writeGpr 0 0x1)
      (fun t => (brief t, t.readGpr 0)) =
      some (⟨.ready, 11, 0, 10, 0x68cf, 0x68cf⟩, 0x8000) := by decide

/-- V-I2. -/
theorem test_in :
    (nextOf (stepIn { Config.standard with port := fun _ _ _ => 0xFFFF } ((at' 10 [(10, 0xc61f)]).writeGpr 2 0x5))).map
      (fun t => (brief t, t.readGpr 2, t.portLog)) =
      some (⟨.ready, 11, 0, 10, 0xc61f, 0xc61f⟩, 0xFFFF, [.answered .read 31 0xFFFF]) := by decide

/-- V-I6. -/
theorem test_in_at_end :
    stepped (at' 2047 [(2047, 0xc400)])
      (fun t => (brief t, t.portLog)) =
      some (⟨.faulted, 2047, 8, 2047, 0xc400, 0xc400⟩, []) := by decide

/-- V-I3. -/
theorem test_out :
    stepped ((at' 10 [(10, 0xc901)]).writeGpr 1 0x48)
      (fun t => (brief t, t.portLog)) =
      some (⟨.ready, 11, 0, 10, 0xc901, 0xc901⟩, [.written 1 0x48]) := by decide

/-- V-I5. -/
theorem test_out_at_end :
    stepped ((at' 2047 [(2047, 0xc901)]).writeGpr 1 0x48)
      (fun t => (brief t, t.portLog)) =
      some (⟨.faulted, 2047, 8, 2047, 0xc901, 0xc901⟩, []) := by decide

/-- V-I4. -/
theorem test_chk :
    (nextOf (stepIn { Config.standard with port := fun q _ _ => if q = .status then 1 else 0 } (at' 10 [(10, 0xcf02)]))).map
      (fun t => (brief t, t.readGpr 3, t.portLog)) =
      some (⟨.ready, 11, 0, 10, 0xcf02, 0xcf02⟩, 1, [.answered .status 2 1]) := by decide

/-- V-F1. -/
theorem test_fadd_no_address_fault :
    stepped (((at' 10 [(10, 0x6c48)]).writeGpr 0 0x3).writeIxr 1 0xffff)
      (fun t => (brief t, t.readGpr 0)) =
      some (⟨.ready, 11, 0, 10, 0x6c48, 0x6c48⟩, 3) := by decide

/-- V-F8. -/
theorem test_fadd_at_end :
    stepped (at' 2047 [(2047, 0x6c00)])
      brief =
      some ⟨.faulted, 2047, 8, 2047, 0x6c00, 0x6c00⟩ := by decide

/-- V-F2. -/
theorem test_fsub_no_pointer_read :
    stepped (at' 10 [(10, 0x7129), (9, 0xffff)])
      brief =
      some ⟨.ready, 11, 0, 10, 0x7129, 0x7129⟩ := by decide

/-- V-F3. -/
theorem test_vadd :
    stepped (at' 10 [(10, 0x740a)])
      brief =
      some ⟨.ready, 11, 0, 10, 0x740a, 0x740a⟩ := by decide

/-- V-F4. -/
theorem test_vsub :
    stepped (at' 10 [(10, 0x798b)])
      brief =
      some ⟨.ready, 11, 0, 10, 0x798b, 0x798b⟩ := by decide

/-- V-F5. -/
theorem test_cnvrt :
    stepped ((at' 10 [(10, 0x7c0c)]).writeGpr 0 0x1)
      (fun t => (brief t, t.readGpr 0)) =
      some (⟨.ready, 11, 0, 10, 0x7c0c, 0x7c0c⟩, 1) := by decide

/-- V-F6. -/
theorem test_ldfr_no_load :
    stepped (at' 10 [(10, 0xa10d), (13, 0x4000)])
      (fun t => (brief t, t.readGpr 1)) =
      some (⟨.ready, 11, 0, 10, 0xa10d, 0xa10d⟩, 0) := by decide

/-- V-F7. -/
theorem test_stfr_no_store :
    stepped (at' 10 [(10, 0xa4ee)])
      (fun t => (brief t, t.readMem 14)) =
      some (⟨.ready, 11, 0, 10, 0xa4ee, 0xa4ee⟩, 0) := by decide

/-! ### The resolver (table 2.4) -/

/-- E6: one level of indirection. -/
theorem test_resolve_one_level :
    resolve 0 true 5 (at' 0 [(5, 6), (6, 7)]) = .ok ⟨6, some (5, 6)⟩ := by decide
/-- E7: the highest legal sum. -/
theorem test_resolve_highest :
    resolve 3 false 31 ((at' 0 []).writeIxr 3 2016) = .ok ⟨2047, none⟩ := by decide
/-- E9: no wrap to 11 or 16 bits. -/
theorem test_resolve_no_wrap : resolve 3 false 0 ((at' 0 []).writeIxr 3 65535) =
    .error (.addressOutOfRange 65535) := by decide
/-- E11: an instruction word as a pointer. -/
theorem test_resolve_pointer_range : resolve 0 true 5 (at' 0 [(5, 0x0D05)]) =
    .error (.addressOutOfRange 3333) := by decide

/-! ### Commands (table 2.7) -/

/-- H2: a step right after reset halts and changes nothing else. -/
theorem test_reset_then_step : nextOf (step State.reset) =
    some { State.reset with run := .halted, trace := [.halt] } := by decide
/-- H4: the later pair for one address wins. -/
theorem test_load_later_wins : (State.reset.loadProgram [(5, 1), (5, 2)]).mem = [(5, 2)] := by decide
/-- H5, H6: a pair out of range refuses the whole command. -/
theorem test_load_refused : State.reset.loadProgram [(5, 1), (2048, 7)] = State.reset ∧
    State.reset.loadProgram [(5, 65536)] = State.reset := by decide
/-- H10 with the stop arriving during the second step. -/
theorem test_stop_during_run :
    (nextOf ((State.reset.loadProgram [(0, 0x2C00)]).runCommand [false, true, false])).map
      (fun t => (brief t, t.stopReq)) = some (⟨.halted, 0, 0, 0, 0x2C00, 0x2C00⟩, false) := by decide
/-- H11: the latch is sampled before the first step. -/
theorem test_stop_before_run :
    (nextOf ((State.reset.loadProgram [(0, 0x2C00)]).stop.runCommand [false])).map
      (fun t => (brief t, t.stopReq)) = some (⟨.halted, 0, 0, 0, 0, 0⟩, false) := by decide
/-- H12: a lone step does not sample it. -/
theorem test_stop_not_sampled_by_step :
    stepped (State.reset.loadProgram [(0, 0x2C00)]).stop (fun t => (t.run, t.stopReq)) =
      some (.ready, true) := by decide
/-- H13: a step that faults wins, and the latch stays set. -/
theorem test_stop_and_fault :
    (nextOf ((State.reset.loadProgram [(0, 0x4480)]).runCommand [true, false])).map
      (fun t => (t.run, t.mfr, t.stopReq)) = some (.faulted, 1, true) := by decide
/-- P2's call and return, the source's scenario S8. -/
theorem test_call_and_return :
    (nextOf ((State.reset.loadProgram [(0, 0x300A), (10, 0x3407)]).runCommand
      [false, false, false])).map (fun t => (t.run, t.pc, t.readGpr 0, t.readGpr 3)) =
      some (.halted, 1, 7, 1) := by decide

/-! ### The encoder and the directives (tables 2.1, 2.2, 2.8) -/

theorem test_assemble_lda : assemble standardOpc "LDA" [2, 3, 31, 1] = .ok 0x0EFF := by decide
theorem test_assemble_src : assemble standardOpc "SRC" [2, 3, 0, 1] = .ok 0x6643 := by decide
theorem test_assemble_unknown : assemble standardOpc "ldr" [0, 0, 1] = .error .unknownOpcode := by
  decide
theorem test_assemble_arity_first : assemble standardOpc "LDR" [4, 0] = .error .arityError := by decide
theorem test_assemble_arity_surplus : assemble standardOpc "LDR" [0, 0, 1, 1, 0] =
    .error .arityError := by decide
theorem test_assemble_range : assemble standardOpc "LDR" [4, 0, 15] = .error .rangeError := by decide
theorem test_assemble_ldx_zero : assemble standardOpc "LDX" [0, 5] = .error .rangeError := by decide
/-- A1 to A8 of table 2.8. -/
theorem test_session : assembleFrom standardOpc 0
    [.loc [6], .data [.value 10], .instruction "LDA" [1, 0, 5], .data [.endMark],
      .instruction "LDR" [4, 0, 15], .instruction "HLT" [], .loc [2048], .data [.value 65536]] =
    (10, ⟨[(6, 0x000A), (7, 0x0D05), (8, 0x0400), (9, 0)],
      [.rangeError, .rangeError, .rangeError]⟩) := by decide
/-- A9 to A12 of table 2.8. -/
theorem test_session_end : assembleFrom standardOpc 10
    [.loc [2047], .data [.value 1], .data [.value 2], .loc [6], .data [.value 11]] =
    (7, ⟨[(2047, 1), (6, 11)], [.rangeError]⟩) := by decide


/-! ### Witnesses: states and operands that meet the hypotheses of each statement, for each clause -/

/-- A direct and an indirect address of 2047, and a sum and a pointer of 2048. -/
def edge (pc : Addr) : State :=
  ((at' pc [(5, 2047), (6, 2048)]).writeIxr 3 2016).writeIxr 2 2017

theorem witness_injective : Function.Injective standardOpc := by
  intro a b
  cases a <;> cases b <;> decide
theorem witness_CanonicalWordReencodes :
    decode standardOpc 0xA4EE = .known (.stfr 0 3 true 14) true := by decide
theorem witness_ReservedBitsAreNotRead :
    decode standardOpc 0x65F2 = .known (.src 1 true true 2) false ∧
    decode standardOpc 0x65C2 = .known (.src 1 true true 2) true := by decide
theorem witness_UnassignedOpcodeValues :
    decode standardOpc 0x5BFF = .unknown 22 ∧ decode standardOpc 0xFFFF = .unknown 63 ∧
    decode standardOpc 0x57FF = .known (.not 3) false := by decide
theorem witness_AssembledWordDecodesBack :
    assemble standardOpc "STX" [3, 31] = .ok 0x88DF ∧
    assemble standardOpc "STX" [3, 31, 1] = .ok 0x88FF ∧
    assemble standardOpc "SETCCE" [] = .ok 0x9000 := by decide
theorem witness_EncoderReportsTheFirstFailure_unknown : ∀ m : Mnemonic, m.name ≠ "END" := by
  intro m
  cases m <;> decide
theorem witness_EncoderReportsTheFirstFailure_arity :
    Mnemonic.name .ldr = "LDR" ∧ Mnemonic.layout .ldr = .standard ∧
    ¬ ([0, 0].length = 3 ∨ [0, 0].length = 4) ∧ Mnemonic.layout .hlt = .noOperand ∧
    ¬ ([0].length = 0) := by decide
theorem witness_EncoderReportsTheFirstFailure_range :
    Mnemonic.name .ldx = "LDX" ∧ assemble standardOpc "LDX" [0, 31] ≠ .error .arityError ∧
    [0, 31][0]? = some 0 ∧ (operandRanges .ldx)[0]? = some (1, 3) ∧ 0 < 1 ∧
    assemble standardOpc "TRAP" [16] ≠ .error .arityError ∧
    [16][0]? = some 16 ∧ (operandRanges .trap)[0]? = some (0, 15) ∧ 15 < 16 := by decide
theorem witness_EncoderReportsTheFirstFailure_accepted :
    assemble standardOpc "TRAP" [15] ≠ .error .arityError ∧
    ∀ k v lo hi : Nat, [15][k]? = some v → (operandRanges .trap)[k]? = some (lo, hi) →
      lo ≤ v ∧ v ≤ hi := by
  refine ⟨by decide, fun k v lo hi h1 h2 => ?_⟩
  match k with
  | 0 => cases h1; cases h2; decide
  | k + 1 => cases h1
theorem witness_DataEndEmitsTheSentinel : (2047 : Nat) ≤ 2047 ∧
    assembleLine standardOpc 2047 (.data [.endMark]) = (2048, .ok (some (2047, 1024))) := by decide
theorem witness_LinesMoveTheLocationCounter_hypotheses :
    assemble standardOpc "LDA" [1, 0, 5] = .ok 0x0D05 ∧ (2047 : Nat) ≤ 2047 ∧ 2047 < 2048 ∧
    assemble standardOpc "LDX" [0, 5] = .error .rangeError ∧ 65535 < 65536 ∧
    ([] : List DataOperand).length ≠ 1 ∧ [1, 2].length ≠ 1 := by decide
theorem witness_LinesMoveTheLocationCounter :
    assembleLine standardOpc 2047 (.data [.value 65535]) = (2048, .ok (some (2047, 65535))) ∧
    assembleLine standardOpc 2048 (.data [.value 0]) = (2048, .error .rangeError) := by decide
theorem witness_AssembledImageAlwaysLoads :
    (2048 : Nat) ≤ 2048 ∧ (at' 0 [(2047, 7)]).mem.wf = true ∧
    ∀ p ∈ (assembleFrom standardOpc 2048 [.loc [2047], .data [.value 9]]).2.pairs,
      p.1 ≠ (2046 : Addr).toNat := by decide
theorem witness_EffectiveAddressModes :
    (31 : Lit5).toNat + ((edge 0).readIxr 3).toNat = (2047 : Addr).toNat ∧
    2047 < (31 : Lit5).toNat + ((edge 0).readIxr 2).toNat ∧
    (5 : Lit5).toNat + ((edge 0).readIxr 0).toNat = (5 : Addr).toNat ∧
    ((edge 0).readMem 5).toNat = (2047 : Addr).toNat ∧ 2047 < ((edge 0).readMem 6).toNat := by
  decide
theorem witness_StepRunsTheDecodedInstruction :
    (at' 2047 [(2047, 0x65F2)]).run = .ready ∧ (at' 2047 [(2047, 0x65F2)]).fetch ≠ 0 ∧
    decode standardOpc (at' 2047 [(2047, 0x65F2)]).fetch = .known (.src 1 true true 2) false := by
  decide
theorem witness_ZeroWordHalts :
    (at' 2047 [(0, 1)]).run = .ready ∧ (at' 2047 [(0, 1)]).readMem 2047 = 0 := by decide
theorem witness_UnassignedOpcodeFaults :
    (at' 2047 [(2047, 0xFFFF)]).run = .ready ∧ (at' 2047 [(2047, 0xFFFF)]).fetch ≠ 0 ∧
    decode standardOpc (at' 2047 [(2047, 0xFFFF)]).fetch = .unknown 63 := by decide
/-- The standard machine with both optional tests on. -/
def guarded : Config := { Config.standard with sentinelGuard := true, strictReserved := true }
theorem witness_OptionalFetchGuardsFault :
    guarded.sentinelGuard = true ∧ guarded.strictReserved = true ∧
    (at' 0 [(0, 1024)]).run = .ready ∧ (at' 0 [(0, 1024)]).fetch = 1024 ∧
    (at' 0 [(0, 1)]).run = .ready ∧ (at' 0 [(0, 1)]).fetch ≠ 0 ∧
    decode guarded.opc (at' 0 [(0, 1)]).fetch = .known .hlt false := by decide
theorem witness_FaultsArePreciseAndKeepThePc :
    (at' 2047 [(2047, 0x1801)]).run = .ready ∧
    (nextOf (stepIn guarded (at' 2047 [(2047, 0x1801)]))).map (fun t => t.run) = some .faulted := by
  decide
/-- The invariant in a state that no reset leaves, and in a faulted one. -/
theorem witness_StepKeepsTheInvariant :
    Invariant { at' 2046 [(2046, 0x4480), (2047, 1)] with cc := 8, lc := 2048 } ∧
    Invariant { at' 2047 [] with run := .faulted, mfr := 8 } :=
  ⟨⟨⟨by decide, by decide, .inl rfl, by decide⟩, .inr rfl⟩,
    ⟨⟨by decide, by decide, .inr (.inr (.inr rfl)), by decide⟩, .inl rfl⟩⟩
theorem witness_ConfiguredStepKeepsTheInvariant : guarded.Admissible :=
  ⟨witness_injective, by decide, by decide, by decide, by decide, by decide, by decide, by decide,
    by decide⟩
theorem witness_OnlyStoresWriteMemory :
    Instr.mnemonic (.ldx 1 false 5) ≠ .str ∧ Instr.mnemonic (.ldx 1 false 5) ≠ .stx ∧
    (nextOf (exec (.ldx 1 false 5) (edge 2046))).map (fun t => t.pc) = some 2047 := by decide
theorem witness_OnlyTrrWritesTheConditionCode :
    Instr.mnemonic (.air 0 31) ≠ .trr ∧
    (nextOf (exec (.air 0 31) (edge 2046))).map (fun t => t.pc) = some 2047 := by decide
theorem witness_OnlyLdxWritesIndexRegisters :
    (nextOf (exec (.ldx 3 false 5) ((edge 0).writeIxr 3 0))).map (fun t => t.readIxr 3) =
      some 2047 ∧ ((edge 0).writeIxr 3 0).readIxr 3 ≠ 2047 := by decide
theorem witness_HaltExactlyOnOpcodeZero :
    (at' 0 [(0, 0x03FF)]).run = .ready ∧ opField (at' 0 [(0, 0x03FF)]).fetch = 0 ∧
    (at' 0 [(0, 0x0400)]).run = .ready ∧ opField (at' 0 [(0, 0x0400)]).fetch = 1 := by decide
theorem witness_DivideFaultOnlyFromDvdByZero :
    (at' 2047 [(2047, 0x46BF)]).run = .ready ∧
    decode standardOpc (at' 2047 [(2047, 0x46BF)]).fetch = .known (.dvd 2 2) false ∧
    (2 : Reg).toNat % 2 = 0 ∧ (at' 2047 [(2047, 0x46BF)]).readGpr 2 = 0 := by decide
theorem witness_OnlyTransfersSetThePc :
    isTransfer (.fadd 3 3 true 31) = false ∧ isTransfer .hlt = false ∧
    (nextOf (exec (.fadd 3 3 true 31) (edge 2046))).map (fun t => t.pc) = some 2047 := by decide
theorem witness_NoSuccessorFaultsWithoutEffect :
    setsPc (.dvd 0 2) (edge 2047) = false ∧ isControl (.dvd 0 2) = false ∧
    (edge 2047).readGpr 2 = 0 ∧ (edge 2047).pc = 2047 ∧
    setsPc (.ldx 0 false 31) (edge 2047) = false ∧ isControl (.ldx 0 false 31) = false ∧
    setsPc (.out 0 1) (edge 2047) = false ∧ isControl (.out 0 1) = false := by decide
/-- The same for an untaken branch of each kind, SOB at the results 0 and 32768, and the taken ones
beside them. -/
theorem witness_NoSuccessorFaultsWithoutEffect_untaken :
    setsPc (.jz 1 0 true 5) ((edge 2047).writeGpr 1 1) = false ∧
    setsPc (.jne 1 0 true 5) (edge 2047) = false ∧
    setsPc (.jge 1 0 true 5) ((edge 2047).writeGpr 1 0x8000) = false ∧
    setsPc (.jge 1 0 true 5) ((edge 2047).writeGpr 1 0x7FFF) = true ∧
    setsPc (.jcc 0 0 true 5) ((edge 2047).setCc 8) = false ∧
    setsPc (.sob 1 0 true 5) ((edge 2047).writeGpr 1 1) = false ∧
    setsPc (.sob 1 0 true 5) ((edge 2047).writeGpr 1 0x8001) = false ∧
    setsPc (.sob 1 0 true 5) ((edge 2047).writeGpr 1 0x8000) = true ∧
    isControl (.sob 1 0 true 5) = false := by decide
theorem witness_AddressFaultsBeforeAnyEffect :
    addressFields (.jz 1 0 true 6) = some (0, true, 6) ∧
    resolve 0 true 6 (edge 2047) = .error (.addressOutOfRange 2048) ∧
    addressFields (.stx 2 false 31) = some (2, false, 31) ∧
    resolve 2 false 31 (edge 2047) = .error (.addressOutOfRange 2048) := by decide
theorem witness_BookkeepingRegistersAreNotRead :
    stepped ((at' 0 [(0, 0x1801)]).latchAccess 9 9) (fun t => (t.mar, t.ir)) = some (0, 0x1801) := by
  decide
/-- LDR, STR, AMR, SMR and JMA; the address hypotheses of the other addressed instructions. -/
theorem witness_addressed :
    resolve 3 false 31 (edge 2046) = .ok ⟨2047, none⟩ ∧ (edge 2046).pc.toNat < 2047 ∧
    resolve 0 true 5 (edge 2047) = .ok ⟨2047, some (5, 2047)⟩ ∧ (edge 2047).pc = 2047 ∧
    resolve 2 false 31 (edge 0) = .error (.addressOutOfRange 2048) ∧
    (edge 0).mem.wf = true := by decide
theorem witness_LdaLoadsTheIndexedLiteral : (edge 2046).pc.toNat < 2047 := by decide
/-- LDX and STX. -/
theorem witness_indexed_by_itself :
    (3 : IxSel) ≠ 0 ∧ resolve 3 false 31 (edge 2046) = .ok ⟨2047, none⟩ ∧
    (edge 2046).pc.toNat < 2047 ∧ (edge 2046).mem.wf = true := by decide
theorem witness_JzJneBranchOnZeroOrNot :
    resolve 0 true 5 (edge 2047) = .ok ⟨2047, some (5, 2047)⟩ ∧ (edge 2047).readGpr 1 = 0 ∧
    ((edge 2047).writeGpr 1 0x8000).readGpr 1 ≠ 0 ∧
    resolve 0 true 5 ((edge 2046).writeGpr 1 1) = .ok ⟨2047, some (5, 2047)⟩ ∧
    ((edge 2046).writeGpr 1 1).readGpr 1 ≠ 0 ∧ (edge 2046).pc.toNat < 2047 := by decide
theorem witness_JgeBranchesOnClearSignBit :
    resolve 0 true 5 ((edge 2046).writeGpr 1 0x7FFF) = .ok ⟨2047, some (5, 2047)⟩ ∧
    (((edge 2046).writeGpr 1 0x7FFF).readGpr 1).toNat ≤ 32767 ∧
    resolve 0 true 5 ((edge 2046).writeGpr 1 0x8000) = .ok ⟨2047, some (5, 2047)⟩ ∧
    32767 < (((edge 2046).writeGpr 1 0x8000).readGpr 1).toNat ∧
    ((edge 2046).writeGpr 1 0x8000).pc.toNat < 2047 ∧
    resolve 0 true 5 ((edge 2047).writeGpr 1 0x8000) = .ok ⟨2047, some (5, 2047)⟩ ∧
    32767 < (((edge 2047).writeGpr 1 0x8000).readGpr 1).toNat ∧
    ((edge 2047).writeGpr 1 0x8000).pc = 2047 ∧
    resolve 0 true 6 (edge 2047) = .error (.addressOutOfRange 2048) := by decide
theorem witness_JccComparesTheWholeConditionCode :
    resolve 0 true 5 ((edge 2046).setCc 3) = .ok ⟨2047, some (5, 2047)⟩ ∧
    ((edge 2046).setCc 3).cc.toNat = (3 : Reg).toNat ∧
    resolve 0 true 5 ((edge 2046).setCc 8) = .ok ⟨2047, some (5, 2047)⟩ ∧
    ((edge 2046).setCc 8).cc.toNat ≠ (0 : Reg).toNat ∧
    ((edge 2046).setCc 8).pc.toNat < 2047 ∧
    resolve 0 true 5 ((edge 2047).setCc 8) = .ok ⟨2047, some (5, 2047)⟩ ∧
    ((edge 2047).setCc 8).cc.toNat ≠ (0 : Reg).toNat ∧ ((edge 2047).setCc 8).pc = 2047 ∧
    resolve 2 false 31 (edge 2047) = .error (.addressOutOfRange 2048) := by decide
theorem witness_RfsReturnsThroughR3 :
    (((edge 2047).writeGpr 3 2047).readGpr 3).toNat ≤ 2047 ∧
    2047 < (((edge 2047).writeGpr 3 2048).readGpr 3).toNat := by decide
theorem witness_SobDecrementsAndLoops :
    resolve 0 true 5 ((edge 2047).writeGpr 1 0x8000) = .ok ⟨2047, some (5, 2047)⟩ ∧
    32767 = ((((edge 2047).writeGpr 1 0x8000).readGpr 1).toNat + 65535) % 65536 ∧
    resolve 0 true 5 ((edge 2046).writeGpr 1 1) = .ok ⟨2047, some (5, 2047)⟩ ∧
    0 = ((((edge 2046).writeGpr 1 1).readGpr 1).toNat + 65535) % 65536 ∧
    ((edge 2046).writeGpr 1 1).pc.toNat < 2047 ∧ ((edge 2047).writeGpr 1 1).pc = 2047 := by decide
/-- AIR, SIR, TRR, AND, ORR, NOT, SRC, RRC, IN, CHK, OUT and the placeholders. -/
theorem witness_below_and_at_the_end :
    (edge 2046).pc.toNat < 2047 ∧ (edge 2047).pc = 2047 := by decide
theorem witness_NotComplementsTheRegister :
    (nextOf (exec (.not 1) (edge 2045))).map (fun t => (t.run, t.pc)) = some (.ready, 2046) ∧
    (edge 2045).run = .ready ∧ (edge 2045).pc.toNat < 2047 := by decide
theorem witness_MltWritesTheSignedProduct :
    (2 : Reg).toNat % 2 = 0 ∧ (0 : Reg).toNat % 2 = 0 ∧ (edge 2046).pc.toNat < 2047 ∧
    (3 : Reg).toNat % 2 = 1 := by decide
theorem witness_DvdWritesQuotientAndRemainder :
    (2 : Reg).toNat % 2 = 0 ∧ (0 : Reg).toNat % 2 = 0 ∧ (edge 2046).pc.toNat < 2047 ∧
    (((edge 2046).writeGpr 0 0xFFFF).writeGpr 2 0x8000).readGpr 0 = 0xFFFF ∧
    (((edge 2046).writeGpr 0 0xFFFF).writeGpr 2 0x8000).readGpr 2 = 0x8000 ∧
    ¬ (((edge 2046).writeGpr 0 5).readGpr 2 = 0x8000 ∧ ((edge 2046).writeGpr 0 5).readGpr 0 = 0xFFFF) ∧
    ((edge 2047).writeGpr 0 5).readGpr 0 ≠ 0 ∧ (edge 2047).pc = 2047 ∧
    (edge 2047).readGpr 0 = 0 ∧ (1 : Reg).toNat % 2 = 1 := by decide
theorem witness_PlaceholdersOnlyAdvance :
    Instr.stfr 3 3 true 31 ∈ [Instr.fadd 3 3 true 31, .fsub 3 3 true 31, .vadd 3 3 true 31,
      .vsub 3 3 true 31, .cnvrt 3 3 true 31, .ldfr 3 3 true 31, .stfr 3 3 true 31] := by decide
theorem witness_LoadProgramWritesInOrder :
    (edge 0).mem.wf = true ∧ (∃ p ∈ [(5, 1), (2048, 7)], 2047 < p.1 ∨ 65535 < p.2) ∧
    ∀ p ∈ [(2047, 65535), (2047, 0)], p.1 ≤ 2047 ∧ p.2 ≤ 65535 := by decide
theorem witness_RunSamplesTheStopBetweenSteps :
    (edge 0).stop.run = .ready ∧ (edge 0).stop.stopReq = true ∧ (edge 0).run = .ready ∧
    (edge 0).stopReq = false ∧ stepped (edge 0) (fun t => t.run) = some .halted ∧
    (edge 0).halt.run ≠ .ready := by decide


end Sys2Proof.Tests
end

section
/-! The invariant after reset (R24, R25), with the facts about the reset state it rests on. -/

namespace Sys2Proof.Machine

@[simp] theorem State.resetAt_mfr (pcReset : Addr) : (State.resetAt pcReset).mfr = 0 := rfl
@[simp] theorem State.resetAt_run (pcReset : Addr) : (State.resetAt pcReset).run = .ready := rfl
@[simp] theorem State.resetAt_cc (pcReset : Addr) : (State.resetAt pcReset).cc = 0 := rfl
@[simp] theorem State.resetAt_lc (pcReset : Addr) : (State.resetAt pcReset).lc = 0 := rfl

/-- Without a fault, `MFR = 0` settles both clauses of R25 about `MFR`, whatever the codes are. -/
theorem InvariantIn.of_not_faulted (c : Config) {s : State} (hmem : s.mem.wf = true)
    (hmfr : s.mfr = 0) (hrun : s.run ≠ .faulted) (hlc : s.lc ≤ maxAddr + 1) :
    InvariantIn c s where
  memory := hmem
  mfr_faulted := iff_of_true hmfr hrun
  mfr_legal := .inl hmfr
  lc_range := hlc

/-- Reset meets the invariant under every configuration and for every `PC_RESET`. -/
theorem State.resetAt_invariantIn (c : Config) (pcReset : Addr) :
    InvariantIn c (State.resetAt pcReset) :=
  have not_faulted : (State.resetAt pcReset).run ≠ .faulted := by simp
  .of_not_faulted c (State.resetAt_mem_wf pcReset) (State.resetAt_mfr pcReset) not_faulted
    (by simp)

/-- Under the standard configuration the zero `CC` (D7) is the one fact more. -/
theorem State.resetAt_invariant (pcReset : Addr) : Invariant (State.resetAt pcReset) where
  toInvariantIn := State.resetAt_invariantIn Config.standard pcReset
  cc_legal := .inl (State.resetAt_cc pcReset)

/-- Settles O19: reset with the default `PC_RESET` is one case of `State.resetAt_invariant`. -/
theorem invariantAtReset : Obligations.InvariantAtReset :=
  ⟨State.resetAt_invariant Config.pcResetDefault, State.resetAt_run _, State.resetAt_mfr _,
    State.resetAt_cc _, State.resetAt_lc _⟩

end Sys2Proof.Machine
end

section
/-! What the resolver answers in each addressing mode (R36, R37): one equation per mode, given
whether the sum of the literal and the index register exists as an address. -/

namespace Sys2Proof.Machine

/-- A literal keeps its value as an address, so it always exists as one (R37). -/
theorem literal_toNat_setWidth (addr : Lit5) : (addr.setWidth 11 : Addr).toNat = addr.toNat :=
  BitVec.toNat_setWidth_of_le (by decide)

section
variable {ix : IxSel} {addr : Lit5} {s : State} {b : Addr}

/-- A sum above 2047 faults in either mode, before any pointer is read. -/
theorem resolve_of_sum_out_of_range (i : Bool)
    (h : maxAddr < addr.toNat + (s.readIxr ix).toNat) :
    resolve ix i addr s = .error (.addressOutOfRange (addr.toNat + (s.readIxr ix).toNat)) := by
  have sum_faults := checkAddr_error_iff.mpr ⟨h, rfl⟩
  simp [resolve, sum_faults]

/-- Without indirection the address is the sum. -/
theorem resolve_direct (h : addr.toNat + (s.readIxr ix).toNat = b.toNat) :
    resolve ix false addr s = .ok ⟨b, none⟩ := by
  simp [resolve, h]

/-- With indirection the word at the sum decides by its own range check, and no further word is
read (one level only). -/
theorem resolve_indirect (h : addr.toNat + (s.readIxr ix).toNat = b.toNat) :
    resolve ix true addr s =
      (checkAddr (s.readMem b).toNat).map fun ea => ⟨ea, some (b, s.readMem b)⟩ := by
  simp only [resolve, h, checkAddr_toNat, memRead_toNat, if_true]
  cases checkAddr (s.readMem b).toNat <;> rfl

/-- A pointer above 2047 faults with the pointer. -/
theorem resolve_of_pointer_out_of_range (h : addr.toNat + (s.readIxr ix).toNat = b.toNat)
    (hp : maxAddr < (s.readMem b).toNat) :
    resolve ix true addr s = .error (.addressOutOfRange (s.readMem b).toNat) := by
  rw [resolve_indirect h, checkAddr_error_iff.mpr ⟨hp, rfl⟩]
  rfl

/-- A pointer in range is the address. -/
theorem resolve_of_pointer {p : Addr} (h : addr.toNat + (s.readIxr ix).toNat = b.toNat)
    (hp : (s.readMem b).toNat = p.toNat) :
    resolve ix true addr s = .ok ⟨p, some (b, s.readMem b)⟩ := by
  rw [resolve_indirect h, checkAddr_ok_iff.mpr hp]
  rfl

end

/-- With neither index nor indirection the address is the literal itself (R37). -/
theorem resolve_literal (addr : Lit5) (s : State) :
    resolve 0 false addr s = .ok ⟨addr.setWidth 11, none⟩ :=
  resolve_direct (by rw [literal_toNat_setWidth]; simp)

/-- Settles O12: each clause is the resolver's equation for that mode. -/
theorem effectiveAddressModes : Obligations.EffectiveAddressModes := by
  intro s a
  refine ⟨?literal, ?indexed⟩
  case literal =>
    rw [resolve_literal]
    exact congrArg Except.ok (literal_toNat_setWidth a)
  case indexed =>
    rintro ix i _ rfl
    refine ⟨resolve_of_sum_out_of_range i, fun b hb => ⟨resolve_direct hb.symm, ?_, ?_⟩⟩
    · exact resolve_of_pointer_out_of_range hb.symm
    · exact fun p hp => resolve_of_pointer hb.symm hp.symm

end Sys2Proof.Machine
end

section
/-! Decoder and encoder are inverse to each other (30_encoding.md section 6, R78, R79): an encoded
instruction is read back, and a word is the encoding of what is read from it up to its reserved
bits. -/

namespace Sys2Proof

/-- The fields of every instruction are read back from its word, one constructor a time. -/
theorem Instr.payload_readBack (i : Instr) : Laws.PayloadReadBack.Statement i := by
  open Laws in
  cases i
  exacts [PayloadReadBack.hlt, PayloadReadBack.trap _, PayloadReadBack.setcce,
    PayloadReadBack.ldr _ _ _ _, PayloadReadBack.str _ _ _ _, PayloadReadBack.lda _ _ _ _,
    PayloadReadBack.ldx _ _ _, PayloadReadBack.stx _ _ _,
    PayloadReadBack.jz _ _ _ _, PayloadReadBack.jne _ _ _ _, PayloadReadBack.jcc _ _ _ _,
    PayloadReadBack.jma _ _ _, PayloadReadBack.jsr _ _ _, PayloadReadBack.rfs _,
    PayloadReadBack.sob _ _ _ _, PayloadReadBack.jge _ _ _ _,
    PayloadReadBack.amr _ _ _ _, PayloadReadBack.smr _ _ _ _, PayloadReadBack.air _ _,
    PayloadReadBack.sir _ _, PayloadReadBack.mlt _ _, PayloadReadBack.dvd _ _,
    PayloadReadBack.trr _ _, PayloadReadBack.and _ _, PayloadReadBack.orr _ _,
    PayloadReadBack.not _, PayloadReadBack.src _ _ _ _, PayloadReadBack.rrc _ _ _ _,
    PayloadReadBack.inp _ _, PayloadReadBack.out _ _, PayloadReadBack.chk _ _,
    PayloadReadBack.fadd _ _ _ _, PayloadReadBack.fsub _ _ _ _, PayloadReadBack.vadd _ _ _ _,
    PayloadReadBack.vsub _ _ _ _, PayloadReadBack.cnvrt _ _ _ _, PayloadReadBack.ldfr _ _ _ _,
    PayloadReadBack.stfr _ _ _ _]

/-- Under an injective assignment the opcode field names the mnemonic again, and the fields are
read back whatever the opcode is. -/
theorem decode_encode {opc : Mnemonic → BitVec 6} (h : Function.Injective opc) (i : Instr) :
    decode opc (encode opc i) = .known i true := by
  obtain ⟨fields, reserved⟩ := i.payload_readBack (opc i.mnemonic)
  simp only [decode, encode, opField_append, lookupOpcode_of_injective h, fields, reserved]

/-- Settles O2: `decode_encode` in full. -/
theorem decodeEncodeRoundTrip : Obligations.DecodeEncodeRoundTrip :=
  fun _ h i => decode_encode h i

/-- The default opcodes are injective: the lookup finds each mnemonic by its own value (R53). -/
theorem standardOpc_injective : Function.Injective standardOpc := by
  have found : ∀ m, lookupOpcode standardOpc (standardOpc m) = some m := by
    intro m; cases m <;> rfl
  exact fun a b h => Option.some.inj ((found a).symm.trans (h ▸ found b))

/-- A word written out bit by bit is read as the instruction it is the encoding of. -/
theorem decode_standard_of_encode {i : Instr} {w : Word} (h : encode standardOpc i = w) :
    decode standardOpc w = .known i true :=
  h ▸ decode_encode standardOpc_injective i

/-- Settles O1: each written word is the encoding of its instruction, so the round trip reads
it. -/
theorem writtenWordsDecode : Obligations.WrittenWordsDecode := by
  refine ⟨?_, ?_, ?_, ?_, ?_, ?_, ?_, ?_, ?_, ?_⟩ <;> exact decode_standard_of_encode (by decide)

/-! ### The fields of a word by layout -/

/-- The ten low bits that each layout packs from the fields of a word. -/
def Layout.payload (l : Layout) (w : Word) : BitVec 10 :=
  match l with
  | .standard => packStandard (rField w) (ixField w) (iField w) (addrField w)
  | .indexOnly => packIndexOnly (ixField w) (iField w) (addrField w)
  | .shiftRotate => packShiftRotate (rField w) (lrField w) (alField w) (countField w)
  | .immediateOrPort => packImmediateOrPort (rField w) (addrField w)
  | .registerRegister => packRegisterRegister (rField w) (ixField w)
  | .noOperand => 0#10
  | .registerOnly => packRegisterOnly (rField w)
  | .ret => packReturn (addrField w)
  | .trapCode => packTrapCode (countField w)

/-- What an instruction read from a word packs depends on its layout only. -/
theorem Instr.payload_ofWord (m : Mnemonic) (w : Word) :
    (Instr.ofWord m w).payload = m.layout.payload w := by
  cases m <;> rfl

/-- Every instruction is read from some word under its mnemonic. -/
theorem Instr.exists_ofWord (i : Instr) : ∃ w, Instr.ofWord i.mnemonic w = i :=
  ⟨0#6 ++ i.payload, (i.payload_readBack 0#6).1⟩

/-- Packing the fields of a word again clears its reserved bits and keeps all others: bit by bit in
each layout. -/
theorem opField_append_payload (l : Layout) (w : Word) :
    opField w ++ l.payload w = w &&& ~~~ l.reservedMask := by
  apply BitVec.eq_of_getLsbD_eq
  intro j hj
  cases l <;>
    simp only [Layout.payload, Layout.reservedMask, BitVec.getLsbD_append, BitVec.getLsbD_and,
      getLsbD_packStandard, getLsbD_packIndexOnly, getLsbD_packShiftRotate,
      getLsbD_packImmediateOrPort, getLsbD_packRegisterRegister, getLsbD_packRegisterOnly,
      getLsbD_packReturn, getLsbD_packTrapCode, opField, rField, ixField, iField, addrField,
      lrField, alField, countField, BitVec.getLsbD_extractLsb'] <;>
    interval_cases j <;> simp

/-- A canonical word has no reserved bit to clear (R79). -/
theorem Layout.and_not_reservedMask_of_canonical {l : Layout} {w : Word}
    (h : l.canonical w = true) : w &&& ~~~ l.reservedMask = w := by
  have reserved : w &&& l.reservedMask = 0 := beq_iff_eq.mp h
  calc w &&& ~~~ l.reservedMask
      = (w &&& ~~~ l.reservedMask) ||| (w &&& l.reservedMask) := by simp [reserved]
    _ = w := by simp [← BitVec.and_or_distrib_left, -BitVec.reduceAllOnes]

/-- Encoding what is read from a word of its opcode clears the reserved bits of the word. -/
theorem encode_ofWord {opc : Mnemonic → BitVec 6} {m : Mnemonic} {w : Word}
    (h : opc m = opField w) :
    encode opc (Instr.ofWord m w) = w &&& ~~~ m.layout.reservedMask := by
  rw [encode, Instr.mnemonic_ofWord, Instr.payload_ofWord, h, opField_append_payload]

/-- Settles O3: the word was read under the mnemonic of its opcode, and canonical says that it has
no reserved bit to lose. -/
theorem canonicalWordReencodes : Obligations.CanonicalWordReencodes := by
  intro opc w i hdec
  obtain ⟨-, unknown⟩ | ⟨m, found, known⟩ := decode_cases opc w
  · simp [unknown] at hdec
  · obtain ⟨rfl, canonical⟩ : Instr.ofWord m w = i ∧ m.layout.canonical w = true := by
      simpa [known] using hdec
    calc encode opc (Instr.ofWord m w)
        = w &&& ~~~ m.layout.reservedMask := encode_ofWord (lookupOpcode_some found)
      _ = w := Layout.and_not_reservedMask_of_canonical canonical

end Sys2Proof
end

section
/-! Instructions as operand lists (R77): by layout, what the encoder packs from the operands of an
instruction is what the instruction packs from its fields. -/

namespace Sys2Proof

open Sys2Proof.Machine

/-! ### The number of each field (R68) -/

theorem rField_toNat (w : Word) : (rField w).toNat = w.toNat / 256 % 4 := by
  simp [rField, Nat.shiftRight_eq_div_pow]

theorem ixField_toNat (w : Word) : (ixField w).toNat = w.toNat / 64 % 4 := by
  simp [ixField, Nat.shiftRight_eq_div_pow]

theorem iField_toNat (w : Word) : (iField w).toNat = w.toNat / 32 % 2 :=
  Nat.toNat_testBit w.toNat 5

theorem addrField_toNat (w : Word) : (addrField w).toNat = w.toNat % 32 := by
  simp [addrField]

theorem lrField_toNat (w : Word) : (lrField w).toNat = w.toNat / 128 % 2 :=
  Nat.toNat_testBit w.toNat 7

theorem alField_toNat (w : Word) : (alField w).toNat = w.toNat / 64 % 2 :=
  Nat.toNat_testBit w.toNat 6

theorem countField_toNat (w : Word) : (countField w).toNat = w.toNat % 16 := by
  simp [countField]

/-- A concatenation is the value formula of a layout: high part times a power of two, plus the low
part. -/
theorem toNat_append_eq_add {m n : Nat} (x : BitVec m) (y : BitVec n) :
    (x ++ y).toNat = x.toNat * 2 ^ n + y.toNat := by
  rw [BitVec.toNat_append, ← Nat.shiftLeft_add_eq_or_of_lt y.isLt, Nat.shiftLeft_eq]

/-- The same when the number of the high part is known: a longer concatenation is read from left to
right. -/
theorem toNat_append_of_toNat_eq {m n c : Nat} {x : BitVec m} (hx : x.toNat = c) (y : BitVec n) :
    (x ++ y).toNat = c * 2 ^ n + y.toNat :=
  hx ▸ toNat_append_eq_add x y

/-! ### The number of each packing (R56 to R65) -/

section Packed
variable (r ix : BitVec 2) (a b : Bool) (v : Lit5) (k : Nibble)

theorem packStandard_toNat :
    (packStandard r ix a v).toNat = r.toNat * 256 + ix.toNat * 64 + a.toNat * 32 + v.toNat :=
  have high := toNat_append_of_toNat_eq (toNat_append_eq_add r ix) (BitVec.ofBool a)
  (toNat_append_of_toNat_eq high v).trans (by simp; omega)

theorem packIndexOnly_toNat :
    (packIndexOnly ix a v).toNat = ix.toNat * 64 + a.toNat * 32 + v.toNat :=
  have high := toNat_append_of_toNat_eq (toNat_append_eq_add 0#2 ix) (BitVec.ofBool a)
  (toNat_append_of_toNat_eq high v).trans (by simp; omega)

theorem packShiftRotate_toNat :
    (packShiftRotate r a b k).toNat = r.toNat * 256 + a.toNat * 128 + b.toNat * 64 + k.toNat :=
  have high := toNat_append_of_toNat_eq (toNat_append_eq_add r (BitVec.ofBool a)) (BitVec.ofBool b)
  (toNat_append_of_toNat_eq (toNat_append_of_toNat_eq high 0#2) k).trans (by simp; omega)

theorem packImmediateOrPort_toNat :
    (packImmediateOrPort r v).toNat = r.toNat * 256 + v.toNat :=
  (toNat_append_of_toNat_eq (toNat_append_eq_add r 0#3) v).trans (by simp; omega)

theorem packRegisterRegister_toNat :
    (packRegisterRegister r ix).toNat = r.toNat * 256 + ix.toNat * 64 :=
  (toNat_append_of_toNat_eq (toNat_append_eq_add r ix) 0#6).trans (by simp; omega)

theorem packRegisterOnly_toNat : (packRegisterOnly r).toNat = r.toNat * 256 :=
  (toNat_append_eq_add r 0#8).trans (by simp)

theorem packReturn_toNat : (packReturn v).toNat = v.toNat :=
  (toNat_append_eq_add 0#5 v).trans (by simp)

theorem packTrapCode_toNat : (packTrapCode k).toNat = k.toNat :=
  (toNat_append_eq_add 0#6 k).trans (by simp)

end Packed

/-! ### The operands of a word by layout (R77) -/

/-- The operand list that each layout reads from the fields of a word, the indirect flag last. -/
def Layout.operands (l : Layout) (w : Word) : List Nat :=
  match l with
  | .standard => [(rField w).toNat, (ixField w).toNat, (addrField w).toNat, (iField w).toNat]
  | .indexOnly => [(ixField w).toNat, (addrField w).toNat, (iField w).toNat]
  | .shiftRotate =>
    [(rField w).toNat, (countField w).toNat, (lrField w).toNat, (alField w).toNat]
  | .immediateOrPort => [(rField w).toNat, (addrField w).toNat]
  | .registerRegister => [(rField w).toNat, (ixField w).toNat]
  | .noOperand => []
  | .registerOnly => [(rField w).toNat]
  | .ret => [(addrField w).toNat]
  | .trapCode => [(countField w).toNat]

/-- The operands of an instruction read from a word depend on its layout only. -/
theorem operandsOf_ofWord (m : Mnemonic) (w : Word) :
    operandsOf (Instr.ofWord m w) = m.layout.operands w := by
  cases m <;> rfl

/-- The most operands a layout admits: the required and the optional ones (R81). -/
def Layout.maxCount (l : Layout) : Nat := (layoutArity l).1 + (layoutArity l).2

/-- The operand counts a layout admits (R81). -/
def Layout.admitsCount (l : Layout) (n : Nat) : Prop := (layoutArity l).1 ≤ n ∧ n ≤ l.maxCount

theorem Layout.length_operands (l : Layout) (w : Word) : (l.operands w).length = l.maxCount := by
  cases l <;> rfl

theorem Layout.admitsCount_operands (l : Layout) (w : Word) :
    l.admitsCount (l.operands w).length := by
  rw [l.length_operands]
  exact ⟨Nat.le_add_right _ _, le_rfl⟩

/-- At most the last operand, the indirect flag, may be omitted. -/
theorem Layout.admitsCount_cases {l : Layout} {n : Nat} (h : l.admitsCount n) :
    n = l.maxCount ∨ n + 1 = l.maxCount := by
  obtain ⟨least, most⟩ := h
  cases l <;> simp only [layoutArity, Layout.maxCount] at * <;> omega

/-- The bits a layout packs are its value formula of the operands (R56 to R65). -/
theorem Layout.payload_toNat (l : Layout) (w : Word) :
    (l.payload w).toNat = fieldValue l (l.operands w) := by
  cases l <;>
    simp [Layout.payload, Layout.operands, fieldValue, operandAt, packStandard_toNat,
      packIndexOnly_toNat, packShiftRotate_toNat, packImmediateOrPort_toNat,
      packRegisterRegister_toNat, packRegisterOnly_toNat, packReturn_toNat, packTrapCode_toNat]

/-- The bits an instruction packs are its layout's value formula of its operands. -/
theorem Instr.payload_toNat (i : Instr) :
    i.payload.toNat = fieldValue i.mnemonic.layout (operandsOf i) := by
  obtain ⟨w, hw⟩ := i.exists_ofWord
  rw [← hw, Instr.payload_ofWord, operandsOf_ofWord, Instr.mnemonic_ofWord, Layout.payload_toNat]

/-- The word of an instruction as the number the encoder packs (R86). -/
theorem encode_toNat (opc : Mnemonic → BitVec 6) (i : Instr) :
    (encode opc i).toNat =
      (opc i.mnemonic).toNat * 1024 + fieldValue i.mnemonic.layout (operandsOf i) := by
  rw [← i.payload_toNat]
  exact toNat_append_eq_add (opc i.mnemonic) i.payload

/-! ### Ranges (R82) -/

/-- Only the layout of LDX and STX has an index selector that may not be 0. -/
theorem leastIx_eq_zero {m : Mnemonic} (h : m.layout ≠ .indexOnly) : leastIx m = 0 := by
  unfold leastIx
  split
  · exact absurd rfl h
  · exact absurd rfl h
  · rfl

/-- An instruction read from a word is well-formed when its index selector is legal (R84). -/
theorem Instr.wellFormed_ofWord (m : Mnemonic) (w : Word) :
    (Instr.ofWord m w).wellFormed = decide (leastIx m ≤ (ixField w).toNat) := by
  have selector : (ixField w != 0) = decide (1 ≤ (ixField w).toNat) := by
    generalize ixField w = ix
    revert ix
    decide
  cases m
  case ldx => exact selector
  case stx => exact selector
  all_goals rfl

/-- The operands of a word are in range exactly when its index selector is legal: all other limits
are the widths of the fields. -/
theorem operandsInRange_operands_iff (m : Mnemonic) (w : Word) :
    operandsInRange (m.layout.operands w) (operandRanges m) = true ↔
      leastIx m ≤ (ixField w).toNat := by
  cases hl : m.layout <;>
    simp [operandRanges, hl, Layout.operands, operandsInRange, leastIx_eq_zero, rField_toNat,
      ixField_toNat, addrField_toNat, iField_toNat, lrField_toNat, alField_toNat,
      countField_toNat] <;>
    omega

/-- The operands of an instruction are in range exactly when it is well-formed. -/
theorem operandsInRange_operandsOf (i : Instr) :
    operandsInRange (operandsOf i) (operandRanges i.mnemonic) = i.wellFormed := by
  obtain ⟨w, hw⟩ := i.exists_ofWord
  rw [← hw, operandsOf_ofWord, Instr.mnemonic_ofWord, Instr.wellFormed_ofWord, Bool.eq_iff_iff,
    operandsInRange_operands_iff, decide_eq_true_iff]

/-- Every layout has a range for each operand it admits. -/
theorem length_operandRanges (m : Mnemonic) : (operandRanges m).length = m.layout.maxCount := by
  cases h : m.layout <;> simp [operandRanges, h, Layout.maxCount, layoutArity]

/-- An operand in range, and an omitted one as 0, is at most the greatest of its range. -/
theorem operandAt_le {ops : List Nat} {ranges : List (Nat × Nat)}
    (h : operandsInRange ops ranges = true) :
    ∀ p ∈ ranges.zipIdx, operandAt ops p.2 ≤ p.1.2 := by
  obtain ⟨-, within⟩ := (operandsInRange_iff ops ranges).mp h
  rintro ⟨⟨lo, hi⟩, k⟩ hp
  have range_at : ranges[k]? = some (lo, hi) := List.mem_zipIdx_iff_getElem?.mp hp
  unfold operandAt
  rw [List.getD_eq_getElem?_getD]
  cases hv : ops[k]? with
  | none => simp
  | some v => exact (within k v lo hi hv range_at).2

/-- The least index selector is kept when the operand is there to be checked. -/
theorem leastIx_le_operandAt {m : Mnemonic} {ops : List Nat}
    (count : m.layout.admitsCount ops.length)
    (range : operandsInRange ops (operandRanges m) = true) : leastIx m ≤ operandAt ops 0 := by
  by_cases hx : m.layout = .indexOnly
  · obtain ⟨least, -⟩ := count
    cases ops with
    | nil => simp [hx, layoutArity] at least
    | cons v vs =>
      simp [operandRanges, hx, operandsInRange] at range
      simpa [operandAt] using range.1.1
  · simp [leastIx_eq_zero hx]

/-- The value formula of operands in range stays below the opcode. -/
theorem fieldValue_lt {m : Mnemonic} {ops : List Nat}
    (h : operandsInRange ops (operandRanges m) = true) : fieldValue m.layout ops < 1024 := by
  have bounds := operandAt_le h
  cases hl : m.layout <;>
    simp [operandRanges, hl] at bounds <;> simp only [fieldValue] <;> omega

/-- The fields of the value formula of operands in range are those operands. -/
theorem operands_ofNat_fieldValue {m : Mnemonic} {ops : List Nat}
    (h : operandsInRange ops (operandRanges m) = true) :
    m.layout.operands (BitVec.ofNat 16 (fieldValue m.layout ops)) =
      (List.range m.layout.maxCount).map (operandAt ops) := by
  have bounds := operandAt_le h
  cases hl : m.layout <;> simp [operandRanges, hl] at bounds <;>
    simp [Layout.operands, Layout.maxCount, layoutArity, fieldValue, List.range_succ,
      rField_toNat, ixField_toNat, iField_toNat, addrField_toNat, lrField_toNat, alField_toNat,
      countField_toNat] <;>
    omega

/-- The positions of a list read it back. -/
theorem map_operandAt_range (ops : List Nat) :
    (List.range ops.length).map (operandAt ops) = ops := by
  refine List.ext_getElem (by simp) fun k _ hk => ?_
  simp [operandAt, hk]

/-- One position more reads the omitted operand as 0 (R54). -/
theorem map_operandAt_range_succ (ops : List Nat) :
    (List.range (ops.length + 1)).map (operandAt ops) = ops ++ [0] := by
  simp [List.range_succ, map_operandAt_range, operandAt]

end Sys2Proof
end

section
/-! The encoder (30_encoding.md section 6): the lookup, one equation per outcome in the order of
R85, and the instruction that an accepted operand list stands for. -/

namespace Sys2Proof.Machine

/-! ### The lookup (R80) -/

/-- Every mnemonic is found by its own spelling. -/
@[simp] theorem lookupName_name (m : Mnemonic) : lookupName m.name = some m := by
  cases m <;> rfl

/-- A name that is no mnemonic's spelling is not found. -/
theorem lookupName_eq_none {name : String} (h : ∀ m : Mnemonic, m.name ≠ name) :
    lookupName name = none := by
  cases hm : lookupName name with
  | none => rfl
  | some m => exact absurd (lookupName_some hm) (h m)

/-! ### The outcomes of the encoder, in the order of R85 -/

section Outcomes
variable {opc : Mnemonic → BitVec 6} {m : Mnemonic} {ops : List Nat}

theorem assemble_of_unknown {name : String} (h : ∀ m : Mnemonic, m.name ≠ name) :
    assemble opc name ops = .error .unknownOpcode := by
  simp [assemble, lookupName_eq_none h]

theorem assemble_of_not_admitsCount (h : ¬ m.layout.admitsCount ops.length) :
    assemble opc m.name ops = .error .arityError := by
  have count : ops.length < (layoutArity m.layout).1 ∨ m.layout.maxCount < ops.length := by
    simpa [Layout.admitsCount, or_iff_not_imp_left] using h
  simp only [assemble, lookupName_name]
  exact if_pos count

theorem assemble_of_admitsCount (h : m.layout.admitsCount ops.length) :
    assemble opc m.name ops =
      if operandsInRange ops (operandRanges m) then
        .ok (BitVec.ofNat 16 ((opc m).toNat * 1024 + fieldValue m.layout ops))
      else .error .rangeError := by
  obtain ⟨least, most⟩ := h
  simp only [assemble, lookupName_name]
  exact if_neg (not_or.mpr ⟨least.not_gt, most.not_gt⟩)

/-- Only a wrong operand count is an arity error. -/
theorem assemble_eq_arityError_iff :
    assemble opc m.name ops = .error .arityError ↔ ¬ m.layout.admitsCount ops.length := by
  refine ⟨fun arity count => ?_, assemble_of_not_admitsCount⟩
  rw [assemble_of_admitsCount count] at arity
  split at arity <;> cases arity

/-- What the encoder accepts: a mnemonic's spelling, an admitted count, operands in range; and the
word it packs. -/
theorem assemble_ok {name : String} {w : Word} (h : assemble opc name ops = .ok w) :
    ∃ m : Mnemonic, m.name = name ∧ m.layout.admitsCount ops.length ∧
      operandsInRange ops (operandRanges m) = true ∧
      w = BitVec.ofNat 16 ((opc m).toNat * 1024 + fieldValue m.layout ops) := by
  by_cases known : ∃ m : Mnemonic, m.name = name
  · obtain ⟨m, rfl⟩ := known
    by_cases count : m.layout.admitsCount ops.length
    · rw [assemble_of_admitsCount count] at h
      split at h
      · exact ⟨m, rfl, count, ‹_›, (Except.ok.inj h).symm⟩
      · cases h
    · simp [assemble_of_not_admitsCount count] at h
  · simp [assemble_of_unknown (not_exists.mp known)] at h

end Outcomes

/-! ### Instructions and accepted operand lists -/

/-- The operand list of an instruction has a count its layout admits. -/
theorem admitsCount_operandsOf (i : Instr) :
    i.mnemonic.layout.admitsCount (operandsOf i).length := by
  obtain ⟨w, hw⟩ := i.exists_ofWord
  rw [← hw, operandsOf_ofWord, Instr.mnemonic_ofWord]
  exact Layout.admitsCount_operands _ w

/-- The word of an instruction is the number the encoder packs from its operands (R86). -/
theorem encode_eq_ofNat (opc : Mnemonic → BitVec 6) (i : Instr) :
    encode opc i = BitVec.ofNat 16
      ((opc i.mnemonic).toNat * 1024 + fieldValue i.mnemonic.layout (operandsOf i)) := by
  rw [← encode_toNat, BitVec.ofNat_toNat, BitVec.setWidth_eq]

/-- Settles O7: the count is admitted, the range check is well-formedness, and the packed number is
the encoding. -/
theorem encoderAcceptsTheWellFormed : Obligations.EncoderAcceptsTheWellFormed := by
  intro opc i
  rw [assemble_of_admitsCount (admitsCount_operandsOf i), operandsInRange_operandsOf,
    encode_eq_ofNat]

/-- An omitted operand is packed as the 0 that may be written for it (R54, R86). -/
theorem fieldValue_append_zero (l : Layout) (ops : List Nat) :
    fieldValue l (ops ++ [0]) = fieldValue l ops := by
  have omitted : operandAt (ops ++ [0]) = operandAt ops := by
    funext k
    obtain present | absent := Nat.lt_or_ge k ops.length
    · exact List.getD_append _ _ _ _ present
    · have zero : [0].getD (k - ops.length) 0 = 0 := by cases k - ops.length <;> rfl
      calc operandAt (ops ++ [0]) k
          = [0].getD (k - ops.length) 0 := List.getD_append_right _ _ _ _ absent
        _ = 0 := zero
        _ = operandAt ops k := (List.getD_eq_default _ _ absent).symm
  simp only [fieldValue, omitted]

/-- The index selector packed from accepted operands is legal (R84). -/
theorem leastIx_le_ixField {m : Mnemonic} {ops : List Nat}
    (count : m.layout.admitsCount ops.length)
    (range : operandsInRange ops (operandRanges m) = true) :
    leastIx m ≤ (ixField (.ofNat 16 (fieldValue m.layout ops))).toNat := by
  by_cases hx : m.layout = .indexOnly
  · have selector : (ixField (.ofNat 16 (fieldValue m.layout ops))).toNat = operandAt ops 0 := by
      simpa [hx, Layout.operands, Layout.maxCount, layoutArity, List.range_succ] using
        congrArg List.head? (operands_ofNat_fieldValue range)
    exact selector ▸ leastIx_le_operandAt count range
  · simp [leastIx_eq_zero hx]

/-- Every operand list the encoder accepts is that of a well-formed instruction, the omitted
indirect flag written out as 0. -/
theorem exists_instr_of_accepted {m : Mnemonic} {ops : List Nat}
    (count : m.layout.admitsCount ops.length)
    (range : operandsInRange ops (operandRanges m) = true) :
    ∃ i : Instr, i.mnemonic = m ∧ i.wellFormed = true ∧
      (operandsOf i = ops ∨ operandsOf i = ops ++ [0]) := by
  have operands : operandsOf (Instr.ofWord m (.ofNat 16 (fieldValue m.layout ops))) =
      (List.range m.layout.maxCount).map (operandAt ops) := by
    rw [operandsOf_ofWord, operands_ofNat_fieldValue range]
  refine ⟨_, Instr.mnemonic_ofWord m (.ofNat 16 (fieldValue m.layout ops)), ?legal, ?operands⟩
  case legal =>
    rw [Instr.wellFormed_ofWord, decide_eq_true_iff]
    exact leastIx_le_ixField count range
  case operands =>
    rw [operands]
    obtain complete | omitted := Layout.admitsCount_cases count
    · exact .inl (complete ▸ map_operandAt_range ops)
    · exact .inr (omitted ▸ map_operandAt_range_succ ops)

/-- Settles O6: an accepted list is the operand list of a well-formed instruction, which encodes to
the answered word, and the decoder reads that word back. -/
theorem assembledWordDecodesBack : Obligations.AssembledWordDecodesBack := by
  intro opc hopc name ops w h
  obtain ⟨m, rfl, count, range, rfl⟩ := assemble_ok h
  obtain ⟨i, rfl, legal, operands⟩ := exists_instr_of_accepted count range
  have packed : fieldValue i.mnemonic.layout (operandsOf i) = fieldValue i.mnemonic.layout ops := by
    obtain same | omitted := operands
    · rw [same]
    · rw [omitted, fieldValue_append_zero]
  have word := packed ▸ encode_eq_ofNat opc i
  exact ⟨i, word ▸ decode_encode hopc i, rfl, legal, word, operands⟩

/-! ### The first failure (R85) -/

/-- The admitted operand counts, layout by layout, as R81 lists them. -/
theorem admitsCount_iff (l : Layout) (n : Nat) :
    l.admitsCount n ↔
      (l = .standard ∧ (n = 3 ∨ n = 4)) ∨ (l = .indexOnly ∧ (n = 2 ∨ n = 3)) ∨
      (l = .shiftRotate ∧ n = 4) ∨ (l = .immediateOrPort ∧ n = 2) ∨
      (l = .registerRegister ∧ n = 2) ∨ (l = .registerOnly ∧ n = 1) ∨
      (l = .ret ∧ n = 1) ∨ (l = .trapCode ∧ n = 1) ∨ (l = .noOperand ∧ n = 0) := by
  cases l <;> simp [Layout.admitsCount, Layout.maxCount, layoutArity] <;> omega

/-- With an admitted count, the range check asks of each operand present that it is in its range. -/
theorem operandsInRange_iff_of_admitsCount {m : Mnemonic} {ops : List Nat}
    (count : m.layout.admitsCount ops.length) :
    operandsInRange ops (operandRanges m) = true ↔
      ∀ k v lo hi : Nat, ops[k]? = some v → (operandRanges m)[k]? = some (lo, hi) →
        lo ≤ v ∧ v ≤ hi := by
  rw [operandsInRange_iff, length_operandRanges]
  exact and_iff_right count.2

/-- Settles O8: the outcomes of the encoder one by one. -/
theorem encoderReportsTheFirstFailure : Obligations.EncoderReportsTheFirstFailure := by
  intro opc name ops
  refine ⟨assemble_of_unknown, ?_⟩
  rintro m rfl
  refine ⟨?arity, fun known outside => ?range, fun known inside => ?packed⟩
  case arity => rw [assemble_eq_arityError_iff, admitsCount_iff]
  all_goals
    have count : m.layout.admitsCount ops.length :=
      not_not.mp fun h => known (assemble_of_not_admitsCount h)
    rw [assemble_of_admitsCount count]
  case range =>
    refine if_neg fun inRange => ?_
    obtain ⟨k, v, lo, hi, hv, hr, out⟩ := outside
    have := (operandsInRange_iff_of_admitsCount count).mp inRange k v lo hi hv hr
    omega
  case packed =>
    have inRange := (operandsInRange_iff_of_admitsCount count).mpr inside
    refine ⟨_, if_pos inRange, ?_⟩
    have payload := fieldValue_lt inRange
    have opcode := (opc m).isLt
    rw [BitVec.toNat_ofNat, Nat.mod_eq_of_lt (by omega)]
    cases m.layout <;> rfl

end Sys2Proof.Machine
end

section
/-! Source lines and the location counter (30_encoding.md section 7, R90 to R95): one equation per
kind of line. -/

namespace Sys2Proof.Machine

section Lines
variable {opc : Mnemonic → BitVec 6} {lc : Nat}

/-! ### Emission (R94) -/

theorem emit_ok (h : lc ≤ maxAddr) (w : Word) : emit lc (.ok w) = (lc + 1, .ok (some (lc, w))) :=
  if_pos h

theorem emit_full (h : maxAddr < lc) (w : Word) : emit lc (.ok w) = (lc, .error .rangeError) :=
  if_neg h.not_ge

@[simp] theorem emit_error (lc : Nat) (e : EncodeError) : emit lc (.error e) = (lc, .error e) := rfl

/-- Only a word at an address that is left is emitted, at the old counter, which advances. -/
theorem emit_eq_some {x : Except EncodeError Word} {lc' a : Nat} {w : Word}
    (h : emit lc x = (lc', .ok (some (a, w)))) : a = lc ∧ lc ≤ maxAddr ∧ lc' = lc + 1 := by
  obtain ⟨_, -, left, emitted⟩ | ⟨_, -, -, full⟩ | ⟨_, -, failed⟩ := emit_cases lc x
  · cases emitted.symm.trans h
    exact ⟨rfl, left, rfl⟩
  · cases full.symm.trans h
  · cases failed.symm.trans h

/-- A failure leaves the counter (R95). -/
theorem emit_eq_error {x : Except EncodeError Word} {lc' : Nat} {e : EncodeError}
    (h : emit lc x = (lc', .error e)) : lc' = lc := by
  obtain ⟨_, -, -, emitted⟩ | ⟨_, -, -, full⟩ | ⟨_, -, failed⟩ := emit_cases lc x
  · cases emitted.symm.trans h
  · cases full.symm.trans h
    rfl
  · cases failed.symm.trans h
    rfl

/-! ### DATA (R92, R93) -/

/-- A DATA operand that fits a word stands for that word. -/
theorem dataWord_of_number {d : DataOperand} {v : Word} (h : d.number = v.toNat) :
    dataWord [d] = .ok v := by
  simp [dataWord, h, v.isLt]

theorem dataWord_of_large {d : DataOperand} (h : 65535 < d.number) :
    dataWord [d] = .error .rangeError :=
  if_neg (by omega)

theorem dataWord_of_length_ne_one {ops : List DataOperand} (h : ops.length ≠ 1) :
    dataWord ops = .error .arityError := by
  match ops, h with
  | [], _ => rfl
  | _ :: _ :: _, _ => rfl

/-! ### Lines -/

theorem assembleLine_instruction (name : String) (ops : List Nat) :
    assembleLine opc lc (.instruction name ops) = emit lc (assemble opc name ops) := rfl

theorem assembleLine_data (ops : List DataOperand) :
    assembleLine opc lc (.data ops) = emit lc (dataWord ops) := rfl

theorem assembleLine_loc {n : Nat} (h : n ≤ maxAddr) :
    assembleLine opc lc (.loc [n]) = (n, .ok none) :=
  if_pos h

theorem assembleLine_loc_large {n : Nat} (h : maxAddr < n) :
    assembleLine opc lc (.loc [n]) = (lc, .error .rangeError) :=
  if_neg h.not_ge

theorem assembleLine_loc_of_length_ne_one {ops : List Nat} (h : ops.length ≠ 1) :
    assembleLine opc lc (.loc ops) = (lc, .error .arityError) := by
  match ops, h with
  | [], _ => rfl
  | _ :: _ :: _, _ => rfl

/-- A LOC line sets the counter or fails and leaves it; it emits nothing (R91). -/
theorem assembleLine_loc_cases (ops : List Nat) :
    (∃ n, assembleLine opc lc (.loc ops) = (n, .ok none)) ∨
      ∃ e, assembleLine opc lc (.loc ops) = (lc, .error e) := by
  by_cases single : ops.length = 1
  · obtain ⟨n, rfl⟩ := List.length_eq_one_iff.mp single
    obtain fits | large := le_or_gt n maxAddr
    · exact .inl ⟨n, assembleLine_loc fits⟩
    · exact .inr ⟨_, assembleLine_loc_large large⟩
  · exact .inr ⟨_, assembleLine_loc_of_length_ne_one single⟩

/-- Whatever the line, a pair is emitted at the old counter, which advances. -/
theorem assembleLine_eq_some {line : Line} {lc' a : Nat} {w : Word}
    (h : assembleLine opc lc line = (lc', .ok (some (a, w)))) :
    a = lc ∧ lc ≤ maxAddr ∧ lc' = lc + 1 := by
  cases line with
  | instruction name ops => exact emit_eq_some h
  | data ops => exact emit_eq_some h
  | loc ops =>
    obtain ⟨n, set⟩ | ⟨e, failed⟩ := assembleLine_loc_cases (opc := opc) (lc := lc) ops
    · cases set.symm.trans h
    · cases failed.symm.trans h

/-- Whatever the line, a failure leaves the counter. -/
theorem assembleLine_eq_error {line : Line} {lc' : Nat} {e : EncodeError}
    (h : assembleLine opc lc line = (lc', .error e)) : lc' = lc := by
  cases line with
  | instruction name ops => exact emit_eq_error h
  | data ops => exact emit_eq_error h
  | loc ops =>
    obtain ⟨n, set⟩ | ⟨e, failed⟩ := assembleLine_loc_cases (opc := opc) (lc := lc) ops
    · cases set.symm.trans h
    · cases failed.symm.trans h
      rfl

end Lines

/-- The sentinel's literal is no mnemonic's spelling. -/
theorem name_ne_end (m : Mnemonic) : m.name ≠ "END" := by cases m <;> decide

/-- Settles O9: the sentinel's number is that of the word 1024, and END is not looked up. -/
theorem dataEndEmitsTheSentinel : Obligations.DataEndEmitsTheSentinel := by
  intro opc lc hlc
  have data_end : dataWord [.endMark] = .ok 1024 := dataWord_of_number rfl
  have data_1024 : dataWord [.value 1024] = .ok 1024 := dataWord_of_number rfl
  refine ⟨?_, ?_, fun ops => ?_⟩
  · rw [assembleLine_data, data_end, emit_ok hlc]
  · rw [assembleLine_data, assembleLine_data, data_end, data_1024]
  · rw [assembleLine_instruction, assemble_of_unknown name_ne_end, emit_error]

/-- Settles O10: the equations of emission, DATA and LOC, and the two facts about every line. -/
theorem linesMoveTheLocationCounter : Obligations.LinesMoveTheLocationCounter := by
  intro opc lc
  refine ⟨fun name ops w hw => ?word, fun name ops e he => ?failed, fun v => ?data,
    fun v hv => ?large, fun ops hops => ?arity, fun n => assembleLine_loc,
    fun n => assembleLine_loc_large, fun ops => assembleLine_loc_of_length_ne_one,
    fun _ _ _ _ => assembleLine_eq_some, fun _ _ _ => assembleLine_eq_error⟩
  case word =>
    rw [assembleLine_instruction, hw]
    exact ⟨fun left => emit_ok left w, fun full => emit_full full w⟩
  case failed => rw [assembleLine_instruction, he, emit_error]
  case data =>
    rw [assembleLine_data, dataWord_of_number rfl]
    exact ⟨fun left => emit_ok left v, fun full => emit_full full v⟩
  case large => rw [assembleLine_data, dataWord_of_large (d := .value v) hv, emit_error]
  case arity => rw [assembleLine_data, dataWord_of_length_ne_one hops, emit_error]

end Sys2Proof.Machine
end

section
/-! The fetch-decode-execute cycle (40_execution_cycle.md section 1): what a ready step does, by the
fetched word and by what the word decodes to. -/

namespace Sys2Proof.Machine

section Cycle
variable {c : Config} {ex : Instr → State → Outcome} {s t : State} {w : Word}

/-- The zero word halts, whatever the configuration (R101). -/
theorem cycle_of_fetch_zero (ready : s.run = .ready) (zero : s.fetch = 0) :
    cycle c ex s = .next s.halt := by
  simp only [cycle, ready, zero, if_true]

/-- Any other word is latched (R102), and then decoded. -/
theorem cycle_of_fetch_ne_zero (ready : s.run = .ready) (nonzero : s.fetch ≠ 0) :
    cycle c ex s = decodeAndExecute c ex s.fetch (s.latchFetch s.fetch) := by
  simp only [cycle, ready, if_neg nonzero]

/-- An unassigned opcode is the `UnknownOpcode` fault whether or not the sentinel test, which
answers the same, comes first (R103, R104). -/
theorem decodeAndExecute_of_unknown {op : BitVec 6} (h : decode c.opc w = .unknown op) :
    decodeAndExecute c ex w t = .next (raise c .unknownOpcode t) := by
  simp only [decodeAndExecute, h, ite_self]

/-- Without the two optional tests (R103, R105) a decoded instruction is dispatched, canonical or
not. -/
theorem decodeAndExecute_of_known {i : Instr} {canonical : Bool}
    (no_sentinel : c.sentinelGuard = false) (not_strict : c.strictReserved = false)
    (h : decode c.opc w = .known i canonical) : decodeAndExecute c ex w t = ex i t := by
  simp [decodeAndExecute, h, no_sentinel, not_strict]

end Cycle

/-- Settles O13: the standard configuration has both optional tests off. -/
theorem stepRunsTheDecodedInstruction : Obligations.StepRunsTheDecodedInstruction := by
  intro s i canonical ready nonzero known
  calc step s
      = decodeAndExecute Config.standard exec s.fetch (s.latchFetch s.fetch) :=
        cycle_of_fetch_ne_zero ready nonzero
    _ = exec i (s.latchFetch s.fetch) := decodeAndExecute_of_known rfl rfl known

/-- Settles O14: the word at the PC is the one the step fetches. -/
theorem zeroWordHalts : Obligations.ZeroWordHalts :=
  fun _ ready zero => cycle_of_fetch_zero ready zero

/-- Settles O15: the step is the fault entry on the latched state, and neither the entry nor the
latches touch what a program can read. -/
theorem unassignedOpcodeFaults : Obligations.UnassignedOpcodeFaults := by
  intro s op ready nonzero unknown
  have faults : step s =
      .next (raise Config.standard .unknownOpcode (s.latchFetch s.fetch)) :=
    (cycle_of_fetch_ne_zero ready nonzero).trans (decodeAndExecute_of_unknown unknown)
  have code_ne_zero : faultCode Config.standard .unknownOpcode ≠ 0 := by decide
  exact ⟨_, faults, code_ne_zero, raise_run .., raise_pc .., rfl,
    fun r _ => State.readGpr_raise .., fun x _ => State.readIxr_raise ..,
    fun a => State.readMem_raise .., raise_cc ..⟩

end Sys2Proof.Machine
end

section
/-! The end of memory (40_execution_cycle.md section 2, R107, R108): what each shape of an
instruction rule answers at address 2047, where the default increment has no address to go to. -/

namespace Sys2Proof.Machine

/-- The outcome `o` is the entry of an address fault on `s`. -/
def FaultsOnAddress (c : Config) (s : State) (o : Outcome) : Prop :=
  ∃ n, o = .next (raise c (.addressOutOfRange n) s)

section Shapes
variable {c : Config} {s : State} {ix : IxSel} {i : Bool} {addr : Lit5}

/-- A rule that ends in `next` has no successor. -/
theorem advance_faultsOnAddress {commit : State → State} (last : s.pc.toNat = maxAddr) :
    FaultsOnAddress c s (advance c s commit) :=
  ⟨2048, advance_at_end last⟩

/-- The resolver faults on the address first, or what follows it does. -/
theorem withAddress_faultsOnAddress {k : Resolved → Outcome}
    (rest : ∀ e, FaultsOnAddress c s (k e)) :
    FaultsOnAddress c s (withAddress c s ix i addr k) := by
  cases resolved : resolve ix i addr s with
  | ok e => exact withAddress_of_ok resolved ▸ rest e
  | error f =>
    rw [withAddress_of_error resolved]
    obtain ⟨-, rfl⟩ | ⟨-, _, -, -, rfl⟩ := resolve_error_cases resolved
    · exact ⟨_, rfl⟩
    · exact ⟨_, rfl⟩

theorem loadAt_faultsOnAddress {commit : Word → State → State} (last : s.pc.toNat = maxAddr) :
    FaultsOnAddress c s (loadAt c s ix i addr commit) :=
  withAddress_faultsOnAddress fun _ => advance_faultsOnAddress last

theorem storeAt_faultsOnAddress {v : Word} (last : s.pc.toNat = maxAddr) :
    FaultsOnAddress c s (storeAt c s ix i addr v) :=
  withAddress_faultsOnAddress fun _ => advance_faultsOnAddress last

/-- Only an untaken branch needs the successor (R108). -/
theorem branchAt_faultsOnAddress {taken : Bool} {commit : State → State}
    (last : s.pc.toNat = maxAddr) (untaken : taken = false) :
    FaultsOnAddress c s (branchAt c s ix i addr taken commit) := by
  refine withAddress_faultsOnAddress fun _ => ?_
  rw [untaken, if_neg Bool.false_ne_true]
  exact advance_faultsOnAddress last

theorem portAsk_faultsOnAddress {q : PortQuery} {r : Reg} {d : Lit5}
    (last : s.pc.toNat = maxAddr) : FaultsOnAddress c s (portAsk c s q r d) :=
  advance_faultsOnAddress last

end Shapes

/-! ### The checks of MLT and DVD (R157) -/

section Pair
variable {c : Config} {s : State} {rx ry : Reg} {check : Word → Word → Option Fault}
  {result : Word → Word → Word × Word}

theorem pairOp_of_odd (odd : (oddField rx || oddField ry) = true) :
    pairOp c s rx ry check result = .next (raise c .unknownOpcode s) :=
  if_pos odd

theorem pairOp_of_check_some {f : Fault} (even : (oddField rx || oddField ry) = false)
    (refused : check (s.readGpr rx) (s.readGpr ry) = some f) :
    pairOp c s rx ry check result = .next (raise c f s) := by
  simp only [pairOp, even, refused, Bool.false_eq_true, if_false]

theorem pairOp_of_check_none (even : (oddField rx || oddField ry) = false)
    (passed : check (s.readGpr rx) (s.readGpr ry) = none) :
    pairOp c s rx ry check result = advance c s fun t =>
      (t.writeGpr rx (result (s.readGpr rx) (s.readGpr ry)).1).writeGpr (rx + 1)
        (result (s.readGpr rx) (s.readGpr ry)).2 := by
  simp only [pairOp, even, passed, Bool.false_eq_true, if_false]

end Pair

/-! ### When a conditional branch is taken -/

section Taken
variable (r : Reg) (ix : IxSel) (i : Bool) (addr : Lit5) (s : State)

theorem setsPc_jz : setsPc (.jz r ix i addr) s = isZero (s.readGpr r) := rfl

theorem setsPc_jne : setsPc (.jne r ix i addr) s = isNonzero (s.readGpr r) := rfl

theorem setsPc_jge : setsPc (.jge r ix i addr) s = isNonnegative (s.readGpr r) := by
  rw [Bool.eq_iff_iff, isNonnegative_iff]
  exact decide_eq_true_iff

theorem setsPc_jcc : setsPc (.jcc r ix i addr) s = ccMatches s.cc r := by
  rw [Bool.eq_iff_iff, ccMatches_iff]
  exact beq_iff_eq

/-- The decrement of SOB, over numbers (R142). -/
theorem setsPc_sob : setsPc (.sob r ix i addr) s = isPositive (subWrap (s.readGpr r) 1) := by
  rw [Bool.eq_iff_iff, isPositive_iff, subWrap_toNat]
  simp [setsPc]

end Taken

/-! ### Every instruction at address 2047 -/

/-- Why the instruction `i` faults in the state `s` at address 2047. -/
inductive LastAddressFault (i : Instr) (s : State) : Fault → Prop
  | address (n : Nat) : LastAddressFault i s (.addressOutOfRange n)
  | noIndexRegister {ind : Bool} {a : Lit5} (h : i = .ldx 0 ind a ∨ i = .stx 0 ind a) :
    LastAddressFault i s .unknownOpcode
  | oddRegister {rx ry : Reg} (h : i = .mlt rx ry ∨ i = .dvd rx ry)
    (odd : rx.toNat % 2 = 1 ∨ ry.toNat % 2 = 1) : LastAddressFault i s .unknownOpcode
  | zeroDivisor {rx ry : Reg} (h : i = .dvd rx ry) (zero : s.readGpr ry = 0) :
    LastAddressFault i s .divideByZero

/-- Executing `i` in `s` answers the fault entry of one of these faults. -/
def FaultsAtLastAddress (i : Instr) (s : State) : Prop :=
  ∃ f, LastAddressFault i s f ∧ exec i s = .next (raise Config.standard f s)

theorem FaultsAtLastAddress.of_address {i : Instr} {s : State}
    (h : FaultsOnAddress Config.standard s (exec i s)) : FaultsAtLastAddress i s :=
  h.imp' Fault.addressOutOfRange fun n faults => ⟨.address n, faults⟩

section AtLast
variable {s : State}

theorem ldx_faultsAtLastAddress (ix : IxSel) (ind : Bool) (a : Lit5)
    (last : s.pc.toNat = maxAddr) : FaultsAtLastAddress (.ldx ix ind a) s := by
  by_cases selector : ix = 0
  · subst selector
    exact ⟨_, .noIndexRegister (.inl rfl), rfl⟩
  · have load : exec (.ldx ix ind a) s = loadAt Config.standard s ix ind a _ := if_neg selector
    exact .of_address (load ▸ loadAt_faultsOnAddress last)

theorem stx_faultsAtLastAddress (ix : IxSel) (ind : Bool) (a : Lit5)
    (last : s.pc.toNat = maxAddr) : FaultsAtLastAddress (.stx ix ind a) s := by
  by_cases selector : ix = 0
  · subst selector
    exact ⟨_, .noIndexRegister (.inr rfl), rfl⟩
  · have store : exec (.stx ix ind a) s = storeAt Config.standard s ix ind a _ := if_neg selector
    exact .of_address (store ▸ storeAt_faultsOnAddress last)

/-- The parity test of MLT and DVD (R157), over numbers. -/
theorem oddFields_iff (rx ry : Reg) :
    (oddField rx || oddField ry) = true ↔ rx.toNat % 2 = 1 ∨ ry.toNat % 2 = 1 := by
  rw [Bool.or_eq_true, oddField_iff, oddField_iff]

theorem mlt_faultsAtLastAddress (rx ry : Reg) (last : s.pc.toNat = maxAddr) :
    FaultsAtLastAddress (.mlt rx ry) s := by
  have rule : exec (.mlt rx ry) s =
      pairOp Config.standard s rx ry (fun _ _ => none) multiply := rfl
  cases parity : oddField rx || oddField ry with
  | true =>
    exact ⟨_, .oddRegister (.inl rfl) ((oddFields_iff rx ry).mp parity),
      rule.trans (pairOp_of_odd parity)⟩
  | false =>
    rw [pairOp_of_check_none parity rfl] at rule
    exact .of_address (rule ▸ advance_faultsOnAddress last)

theorem dvd_faultsAtLastAddress (rx ry : Reg) (last : s.pc.toNat = maxAddr) :
    FaultsAtLastAddress (.dvd rx ry) s := by
  have rule : exec (.dvd rx ry) s = pairOp Config.standard s rx ry
      (fun _ d => if d = 0 then some .divideByZero else none) divide := rfl
  cases parity : oddField rx || oddField ry with
  | true =>
    exact ⟨_, .oddRegister (.inr rfl) ((oddFields_iff rx ry).mp parity),
      rule.trans (pairOp_of_odd parity)⟩
  | false =>
    by_cases divisor : s.readGpr ry = 0
    · exact ⟨_, .zeroDivisor rfl divisor,
        rule.trans (pairOp_of_check_some parity (if_pos divisor))⟩
    · rw [pairOp_of_check_none parity (if_neg divisor)] at rule
      exact .of_address (rule ▸ advance_faultsOnAddress last)

end AtLast

/-- By the shape of each instruction's rule: the four with checks of their own above, every other
on the address it resolves or on the missing successor. -/
theorem exec_faultsAtLastAddress {i : Instr} {s : State} (last : s.pc.toNat = maxAddr)
    (increments : setsPc i s = false) (advances : isControl i = false) :
    FaultsAtLastAddress i s := by
  cases i with
  | hlt | trap | setcce => cases advances
  | jma | jsr | rfs => cases increments
  | ldx ix ind a => exact ldx_faultsAtLastAddress ix ind a last
  | stx ix ind a => exact stx_faultsAtLastAddress ix ind a last
  | mlt rx ry => exact mlt_faultsAtLastAddress rx ry last
  | dvd rx ry => exact dvd_faultsAtLastAddress rx ry last
  | jz | jne | jge | jcc | sob =>
    refine .of_address ?_
    simp only [setsPc_jz, setsPc_jne, setsPc_jge, setsPc_jcc, setsPc_sob] at increments
    simp only [exec, execJz, execJne, execJge, execJcc, execSob]
    exact branchAt_faultsOnAddress last increments
  | ldr | amr | smr =>
    refine .of_address ?_
    simp only [exec, execLdr, execAmr, execSmr]
    exact loadAt_faultsOnAddress last
  | str => exact .of_address (storeAt_faultsOnAddress last)
  | inp | chk => exact .of_address (portAsk_faultsOnAddress last)
  | lda | air | sir | trr | and | orr | not | src | rrc | out
  | fadd | fsub | vadd | vsub | cnvrt | ldfr | stfr =>
    refine .of_address ?_
    simp only [exec, execLda, execAir, execSir, execTrr, execAnd, execOrr, execNot, execSrc,
      execRrc, execOut, execFadd, execFsub, execVadd, execVsub, execCnvrt, execLdfr, execStfr]
    exact advance_faultsOnAddress last

/-- Settles O29: what the fault is says why it was raised. -/
theorem noSuccessorFaultsWithoutEffect : Obligations.NoSuccessorFaultsWithoutEffect := by
  intro i s increments advances hpc
  have last : s.pc.toNat = maxAddr := congrArg BitVec.toNat hpc
  obtain ⟨f, cause, faults⟩ := exec_faultsAtLastAddress last increments advances
  refine ⟨f, faults, ?_⟩
  cases cause with
  | address n => exact ⟨nofun, nofun⟩
  | noIndexRegister selector => exact ⟨fun _ => .inl ⟨_, _, selector⟩, nofun⟩
  | oddRegister instruction odd => exact ⟨fun _ => .inr ⟨_, _, instruction, odd⟩, nofun⟩
  | zeroDivisor instruction zero => exact ⟨nofun, fun _ => ⟨_, _, instruction, zero⟩⟩

end Sys2Proof.Machine
end

section
/-! Loads and stores of a general register (42_load_store.md, R125, R126): the shapes of a load and
a store where they fault, and what their commits change and leave unchanged. -/

namespace Sys2Proof.Machine

/-! ### The shapes where they fault -/

section Shapes
variable {c : Config} {s : State} {ix : IxSel} {i : Bool} {addr : Lit5} {e : Resolved} {f : Fault}
  {commit : Word → State → State} {v : Word}

/-- A good address does not help where there is no successor. -/
theorem loadAt_at_end (resolved : resolve ix i addr s = .ok e) (last : s.pc.toNat = maxAddr) :
    loadAt c s ix i addr commit = .next (raise c (.addressOutOfRange 2048) s) :=
  (withAddress_of_ok resolved).trans (advance_at_end last)

theorem loadAt_of_error (bad : resolve ix i addr s = .error f) :
    loadAt c s ix i addr commit = .next (raise c f s) :=
  withAddress_of_error bad

theorem storeAt_at_end (resolved : resolve ix i addr s = .ok e) (last : s.pc.toNat = maxAddr) :
    storeAt c s ix i addr v = .next (raise c (.addressOutOfRange 2048) s) :=
  (withAddress_of_ok resolved).trans (advance_at_end last)

theorem storeAt_of_error (bad : resolve ix i addr s = .error f) :
    storeAt c s ix i addr v = .next (raise c f s) :=
  withAddress_of_error bad

end Shapes

/-! ### What the commits leave unchanged -/

section Frames
variable {ws : List Reg} {s t : State}

/-- A register write changes that register only. -/
theorem RegisterFrame.writeGpr (s : State) (r : Reg) (v : Word) :
    RegisterFrame [r] s (s.writeGpr r v) := by
  have others_kept : GprsKept [r] s (s.writeGpr r v) := by
    intro q hq
    rw [State.readGpr_writeGpr, if_neg (List.ne_of_not_mem_cons hq)]
  exact ⟨others_kept, fun x _ => State.readIxr_writeGpr .., fun a => State.readMem_writeGpr ..,
    State.writeGpr_cc .., ⟨rfl, rfl, rfl, rfl, rfl⟩, ⟨rfl, rfl⟩⟩

/-- The frame does not speak of MAR and MBR. -/
theorem RegisterFrame.latchAccess (h : RegisterFrame ws s t) (a : Addr) (v : Word) :
    RegisterFrame ws s (t.latchAccess a v) := h

/-- The frame does not speak of the PC. -/
theorem RegisterFrame.setPc (h : RegisterFrame ws s t) (a : Addr) :
    RegisterFrame ws s (t.setPc a) := h

/-- The word just stored, in a canonical memory. -/
theorem State.readMem_writeMem_same (canonical : s.mem.wf = true) (a : Addr) (v : Word) :
    (s.writeMem a v).readMem a = v := by
  rw [State.readMem_writeMem canonical, if_pos rfl]

/-- A store into a canonical memory changes one word only (R34). -/
theorem MemKeptBut.writeMem (canonical : s.mem.wf = true) (a : Addr) (v : Word) :
    MemKeptBut a s (s.writeMem a v) := by
  intro b hb
  rw [State.readMem_writeMem canonical, if_neg hb]

end Frames

/-! ### LDR and STR -/

/-- The number of an instruction of the standard layout (R56). -/
theorem encode_toNat_of_standard {ins : Instr} {r : Reg} {ix : IxSel} {i : Bool} {addr : Lit5}
    (opc : Mnemonic → BitVec 6) (layout : ins.payload = packStandard r ix i addr) :
    (encode opc ins).toNat = (opc ins.mnemonic).toNat * 1024 + r.toNat * 256 + ix.toNat * 64 +
      i.toNat * 32 + addr.toNat := by
  rw [encode, toNat_append_eq_add, layout, packStandard_toNat]
  omega

section Rules
variable (r : Reg) (ix : IxSel) (i : Bool) (addr : Lit5) (s : State)

theorem exec_ldr : exec (.ldr r ix i addr) s =
    loadAt Config.standard s ix i addr fun v t => t.writeGpr r v := rfl

theorem exec_str : exec (.str r ix i addr) s =
    storeAt Config.standard s ix i addr (s.readGpr r) := rfl

end Rules

/-- Settles O34: a load that completes is a register write, the access latches and the increment,
and neither of the last two is in the frame. -/
theorem ldrLoadsFromTheEffectiveAddress : Obligations.LdrLoadsFromTheEffectiveAddress := by
  intro r ix i addr s
  rw [exec_ldr]
  refine ⟨encode_toNat_of_standard standardOpc rfl, fun e resolved below => ?completes,
    fun e resolved last => ?no_successor, fun _ => loadAt_of_error⟩
  case completes =>
    have loaded : (s.writeGpr r (s.readMem e.ea)).readGpr r = s.readMem e.ea := by
      rw [State.readGpr_writeGpr, if_pos rfl]
    exact ⟨_, loadAt_of_ok resolved below, loaded, rfl, rfl, rfl,
      ((RegisterFrame.writeGpr s r _).latchAccess e.ea _).setPc _⟩
  case no_successor => exact loadAt_at_end resolved (congrArg BitVec.toNat last)

/-- Settles O35: a store that completes is a memory write, the access latches and the increment, and
no register is written. -/
theorem strStoresAtTheEffectiveAddress : Obligations.StrStoresAtTheEffectiveAddress := by
  intro r ix i addr s canonical
  rw [exec_str]
  refine ⟨encode_toNat_of_standard standardOpc rfl, fun e resolved below => ?completes,
    fun e resolved last => ?no_successor, fun _ => storeAt_of_error⟩
  case completes =>
    have stored := State.readMem_writeMem_same canonical e.ea (s.readGpr r)
    have others_kept := MemKeptBut.writeMem canonical e.ea (s.readGpr r)
    exact ⟨_, storeAt_of_ok resolved below, stored, others_kept, rfl, rfl, rfl, fun _ _ => rfl,
      fun _ _ => rfl, rfl, ⟨rfl, rfl, rfl, rfl, rfl⟩, ⟨rfl, rfl⟩⟩
  case no_successor => exact storeAt_at_end resolved (congrArg BitVec.toNat last)

end Sys2Proof.Machine
end

section
/-! Words that differ in reserved bits only (30_encoding.md section 5, D15): the decoder reads the
same instruction from all of them. -/

namespace Sys2Proof

section Reserved
variable {opc : Mnemonic → BitVec 6} {i : Instr} {w : Word}

/-- The encoding of an instruction has no reserved bit to clear. -/
theorem encode_and_not_reservedMask (opc : Mnemonic → BitVec 6) (i : Instr) :
    encode opc i &&& ~~~ i.mnemonic.layout.reservedMask = encode opc i :=
  Layout.and_not_reservedMask_of_canonical (i.payload_readBack (opc i.mnemonic)).2

/-- A word that is an encoding but for its reserved bits has the opcode of that instruction. -/
theorem opField_of_and_not_reservedMask
    (h : w &&& ~~~ i.mnemonic.layout.reservedMask = encode opc i) :
    opField w = opc i.mnemonic := by
  rw [← opField_append_payload] at h
  calc opField w
      = opField (opField w ++ i.mnemonic.layout.payload w) := (opField_append ..).symm
    _ = opField (opc i.mnemonic ++ i.payload) := congrArg opField h
    _ = opc i.mnemonic := opField_append ..

/-- Such a word is read as the instruction: what is read from it has the same encoding, and an
encoding is the encoding of one instruction only. -/
theorem decode_of_and_not_reservedMask (inj : Function.Injective opc)
    (h : w &&& ~~~ i.mnemonic.layout.reservedMask = encode opc i) :
    decode opc w = .known i (i.mnemonic.layout.canonical w) := by
  have opcode := opField_of_and_not_reservedMask h
  have same_word : encode opc (Instr.ofWord i.mnemonic w) = encode opc i :=
    (encode_ofWord opcode.symm).trans h
  have same_reading := (decode_encode inj _).symm.trans (same_word ▸ decode_encode inj i)
  obtain ⟨same_instruction, -⟩ := Decoded.known.inj same_reading
  simp only [decode, opcode, lookupOpcode_of_injective inj, same_instruction]

/-- Setting reserved bits in the word of an instruction does not change what is read from it. -/
theorem decode_encode_or_reserved (inj : Function.Injective opc) (i : Instr) {junk : Word}
    (reserved : junk &&& ~~~ i.mnemonic.layout.reservedMask = 0) :
    ∃ canonical, decode opc (encode opc i ||| junk) = .known i canonical := by
  have cleared : (encode opc i ||| junk) &&& ~~~ i.mnemonic.layout.reservedMask =
      encode opc i := by
    rw [BitVec.and_or_distrib_right, encode_and_not_reservedMask, reserved]
    exact BitVec.or_zero
  exact ⟨_, decode_of_and_not_reservedMask inj cleared⟩

end Reserved

end Sys2Proof
end

section
/-! Branches and the jump without a link (43_transfer.md, R135 to R139): the shape of a branch that
commits nothing but the PC and the pointer bookkeeping, and when each branch is taken. -/

namespace Sys2Proof.Machine

/-! ### The shape where it faults -/

section Faults
variable {c : Config} {s : State} {ix : IxSel} {i : Bool} {addr : Lit5} {e : Resolved} {f : Fault}
  {taken : Bool} {commit : State → State}

/-- An untaken branch needs the successor, which is not there at 2047. -/
theorem branchAt_at_end (resolved : resolve ix i addr s = .ok e) (untaken : taken = false)
    (last : s.pc.toNat = maxAddr) :
    branchAt c s ix i addr taken commit = .next (raise c (.addressOutOfRange 2048) s) := by
  rw [branchAt, withAddress_of_ok resolved, untaken, if_neg Bool.false_ne_true,
    advance_at_end last]

/-- A bad address faults, taken or not (R38). -/
theorem branchAt_of_error (bad : resolve ix i addr s = .error f) :
    branchAt c s ix i addr taken commit = .next (raise c f s) :=
  withAddress_of_error bad

end Faults

/-! ### What a completed branch leaves unchanged -/

section Frames
variable {ws : List Reg} {s t : State}

theorem RegisterFrame.refl (ws : List Reg) (s : State) : RegisterFrame ws s s :=
  ⟨fun _ _ => rfl, fun _ _ => rfl, fun _ => rfl, rfl, ⟨rfl, rfl, rfl, rfl, rfl⟩, ⟨rfl, rfl⟩⟩

/-- The pointer bookkeeping is an access latch or nothing, and the frame does not speak of it. -/
theorem RegisterFrame.latchPointer (h : RegisterFrame ws s t) (e : Resolved) :
    RegisterFrame ws s (t.latchPointer e) := by
  unfold State.latchPointer
  split
  · exact h
  · exact h.latchAccess ..

end Frames

/-- The outcome `o` is that of an instruction which resolved the address `e` in `s`, sets the PC to
`a`, and changes nothing else but the pointer bookkeeping. -/
def OnlySetsPc (a : Addr) (e : Resolved) (s : State) (o : Outcome) : Prop :=
  ∃ t, o = .next t ∧ t.pc = a ∧ LatchesPointer e s t ∧ RegisterFrame [] s t

theorem onlySetsPc_latchPointer (a : Addr) (e : Resolved) (s : State) :
    OnlySetsPc a e s (.next ((s.latchPointer e).setPc a)) :=
  ⟨_, rfl, State.setPc_pc .., ⟨rfl, rfl⟩, ((RegisterFrame.refl [] s).latchPointer e).setPc a⟩

/-! ### A conditional branch -/

/-- The four outcomes of a branch to `EA(ix, i, addr)` that is taken on the condition `yes`, is not
taken on the condition `no`, and commits nothing of its own (R38, R107, R108, R135 to R138). -/
structure Branches (yes no : Prop) (ix : IxSel) (i : Bool) (addr : Lit5) (s : State)
    (o : Outcome) : Prop where
  taken : ∀ e, resolve ix i addr s = .ok e → yes → OnlySetsPc e.ea e s o
  untaken : ∀ e, resolve ix i addr s = .ok e → no → s.pc.toNat < 2047 →
    OnlySetsPc (s.pc + 1) e s o
  noSuccessor : ∀ e, resolve ix i addr s = .ok e → no → s.pc = 2047 →
    o = .next (raise Config.standard (.addressOutOfRange 2048) s)
  badAddress : ∀ f, resolve ix i addr s = .error f → o = .next (raise Config.standard f s)

theorem branchAt_branches {yes no : Prop} {ix : IxSel} {i : Bool} {addr : Lit5} {s : State}
    {cond : Bool} (taken_iff : cond = true ↔ yes) (untaken_iff : cond = false ↔ no) :
    Branches yes no ix i addr s (branchAt Config.standard s ix i addr cond fun t => t) where
  taken e resolved h := by
    rw [branchAt_taken resolved (taken_iff.mpr h)]
    exact onlySetsPc_latchPointer ..
  untaken e resolved h below := by
    rw [branchAt_not_taken resolved (untaken_iff.mpr h) below]
    exact onlySetsPc_latchPointer ..
  noSuccessor e resolved h last :=
    branchAt_at_end resolved (untaken_iff.mpr h) (congrArg BitVec.toNat last)
  badAddress _ := branchAt_of_error

/-! ### JZ, JNE, JGE and JCC -/

section Rules
variable (r : Reg) (ix : IxSel) (i : Bool) (addr : Lit5) (s : State)

theorem jz_branches : Branches (s.readGpr r = 0) (s.readGpr r ≠ 0) ix i addr s
    (exec (.jz r ix i addr) s) :=
  branchAt_branches beq_iff_eq beq_eq_false_iff_ne

theorem jne_branches : Branches (s.readGpr r ≠ 0) (s.readGpr r = 0) ix i addr s
    (exec (.jne r ix i addr) s) :=
  branchAt_branches bne_iff_ne bne_eq_false_iff_eq

theorem jge_branches : Branches ((s.readGpr r).toNat ≤ 32767) (32767 < (s.readGpr r).toNat)
    ix i addr s (exec (.jge r ix i addr) s) :=
  have taken_iff := isNonnegative_iff (s.readGpr r)
  branchAt_branches taken_iff (Bool.eq_false_iff.trans (taken_iff.not.trans Nat.not_le))

theorem jcc_branches : Branches (s.cc.toNat = r.toNat) (s.cc.toNat ≠ r.toNat) ix i addr s
    (exec (.jcc r ix i addr) s) :=
  have taken_iff := ccMatches_iff s.cc r
  branchAt_branches taken_iff (Bool.eq_false_iff.trans taken_iff.not)

end Rules

/-- Settles O40: the sign bit is clear up to 32767 (D9). -/
theorem jgeBranchesOnClearSignBit : Obligations.JgeBranchesOnClearSignBit := by
  intro r ix i addr s
  have jge := jge_branches r ix i addr s
  exact ⟨jge.taken, jge.untaken, jge.noSuccessor, jge.badAddress⟩

/-- Settles O39: the two conditions are each other's negation. -/
theorem jzJneBranchOnZeroOrNot : Obligations.JzJneBranchOnZeroOrNot := by
  intro r ix i addr s
  have jz := jz_branches r ix i addr s
  have jne := jne_branches r ix i addr s
  exact ⟨encode_toNat_of_standard standardOpc rfl, jz.taken, jz.untaken, jz.noSuccessor,
    jz.badAddress, encode_toNat_of_standard standardOpc rfl, jne.taken, jne.untaken,
    jne.noSuccessor, jne.badAddress⟩

/-- Settles O41: the selector is compared with all four bits of CC (D24). -/
theorem jccComparesTheWholeConditionCode : Obligations.JccComparesTheWholeConditionCode := by
  intro r ix i addr s
  have jcc := jcc_branches r ix i addr s
  exact ⟨jcc.taken, jcc.untaken, jcc.noSuccessor, jcc.badAddress⟩

/-! ### JMA -/

/-- The number of an instruction of the index-only layout (R58). -/
theorem encode_toNat_of_indexOnly {ins : Instr} {ix : IxSel} {i : Bool} {addr : Lit5}
    (opc : Mnemonic → BitVec 6) (layout : ins.payload = packIndexOnly ix i addr) :
    (encode opc ins).toNat = (opc ins.mnemonic).toNat * 1024 + ix.toNat * 64 + i.toNat * 32 +
      addr.toNat := by
  rw [encode, toNat_append_eq_add, layout, packIndexOnly_toNat]
  omega

/-- Bits 9:8 are the reserved bits of the index-only layout (R58). -/
theorem indexOnly_reserves_bits_9_8 (junk : BitVec 2) :
    junk.setWidth 16 <<< 8 &&& ~~~ Layout.indexOnly.reservedMask = 0 := by
  revert junk
  decide

theorem exec_jma (ix : IxSel) (i : Bool) (addr : Lit5) (s : State) : exec (.jma ix i addr) s =
    branchAt Config.standard s ix i addr true fun t => t := rfl

/-- Settles O42: JMA is a branch that is always taken, so it needs no successor. -/
theorem jmaJumps : Obligations.JmaJumps := by
  intro ix i addr s
  rw [exec_jma]
  refine ⟨encode_toNat_of_indexOnly standardOpc rfl, fun junk => ?ignored,
    fun e resolved => ?jumps, fun _ => branchAt_of_error⟩
  case ignored =>
    exact decode_encode_or_reserved standardOpc_injective (.jma ix i addr)
      (indexOnly_reserves_bits_9_8 junk)
  case jumps =>
    rw [branchAt_taken resolved rfl]
    exact onlySetsPc_latchPointer ..

end Sys2Proof.Machine
end

section
/-! Sums and differences (44_arithmetic.md, R150 to R154): a rule that loads a word and writes one
general register, and a rule that writes one general register without a memory access. -/

namespace Sys2Proof.Machine

/-! ### A general register written from a word of memory -/

/-- The outcome `o` is that of an instruction which completes with the number `n` in `GPR[r]` and the
access to `MEM[a]` in MAR and MBR, and changes nothing else but the PC. -/
def LoadsIntoGpr (r : Reg) (n : Nat) (a : Addr) (s : State) (o : Outcome) : Prop :=
  ∃ t, o = .next t ∧ (t.readGpr r).toNat = n ∧ t.mar = a ∧ t.mbr = s.readMem a ∧
    t.pc = s.pc + 1 ∧ RegisterFrame [r] s t

/-- The three outcomes of a rule that replaces `GPR[r]` by a number computed from the word at
`EA(ix, i, addr)` (R38, R107, R151, R152). -/
structure CombinesWithMemory (result : Word → Nat) (r : Reg) (ix : IxSel) (i : Bool) (addr : Lit5)
    (s : State) (o : Outcome) : Prop where
  completes : ∀ e, resolve ix i addr s = .ok e → s.pc.toNat < 2047 →
    LoadsIntoGpr r (result (s.readMem e.ea)) e.ea s o
  noSuccessor : ∀ e, resolve ix i addr s = .ok e → s.pc = 2047 →
    o = .next (raise Config.standard (.addressOutOfRange 2048) s)
  badAddress : ∀ f, resolve ix i addr s = .error f → o = .next (raise Config.standard f s)

theorem State.readGpr_writeGpr_same (s : State) (r : Reg) (v : Word) :
    (s.writeGpr r v).readGpr r = v := by
  rw [State.readGpr_writeGpr, if_pos rfl]

theorem loadAt_combinesWithMemory {result : Word → Nat} {new : Word → Word} {r : Reg} {ix : IxSel}
    {i : Bool} {addr : Lit5} {s : State} (value : ∀ v, (new v).toNat = result v) :
    CombinesWithMemory result r ix i addr s
      (loadAt Config.standard s ix i addr fun v t => t.writeGpr r (new v)) where
  completes e resolved below := by
    have written := congrArg BitVec.toNat (s.readGpr_writeGpr_same r (new (s.readMem e.ea)))
    exact ⟨_, loadAt_of_ok resolved below, written.trans (value _), rfl, rfl, rfl,
      ((RegisterFrame.writeGpr s r _).latchAccess e.ea _).setPc _⟩
  noSuccessor _ resolved last := loadAt_at_end resolved (congrArg BitVec.toNat last)
  badAddress _ := loadAt_of_error

/-! ### AMR and SMR -/

section Memory
variable (r : Reg) (ix : IxSel) (i : Bool) (addr : Lit5) (s : State)

theorem amr_combinesWithMemory :
    CombinesWithMemory (fun v => ((s.readGpr r).toNat + v.toNat) % 65536) r ix i addr s
      (exec (.amr r ix i addr) s) :=
  loadAt_combinesWithMemory fun v => addWrap_toNat (s.readGpr r) v

theorem smr_combinesWithMemory :
    CombinesWithMemory (fun v => ((s.readGpr r).toNat + (65536 - v.toNat)) % 65536) r ix i addr s
      (exec (.smr r ix i addr) s) :=
  loadAt_combinesWithMemory fun v => subWrap_toNat (s.readGpr r) v

end Memory

/-- Settles O46: both instructions are loads that combine the word with the old register. -/
theorem amrSmrAddAndSubtractMemory : Obligations.AmrSmrAddAndSubtractMemory := by
  intro r ix i addr s
  have amr := amr_combinesWithMemory r ix i addr s
  have smr := smr_combinesWithMemory r ix i addr s
  exact ⟨encode_toNat_of_standard standardOpc rfl, amr.completes, amr.noSuccessor, amr.badAddress,
    encode_toNat_of_standard standardOpc rfl, smr.completes, smr.noSuccessor, smr.badAddress⟩

/-! ### A general register written without a memory access -/

/-- The outcome `o` is that of an instruction which completes with the number `n` in `GPR[r]` and
changes nothing else but the PC. -/
def OnlyWritesGpr (r : Reg) (n : Nat) (s : State) (o : Outcome) : Prop :=
  ∃ t, o = .next t ∧ (t.readGpr r).toNat = n ∧ t.pc = s.pc + 1 ∧ LatchesKept s t ∧
    RegisterFrame [r] s t

theorem advance_onlyWritesGpr {c : Config} {s : State} {n : Nat} {v : Word} (r : Reg)
    (value : v.toNat = n) (below : s.pc.toNat < 2047) :
    OnlyWritesGpr r n s (advance c s fun t => t.writeGpr r v) := by
  have written := congrArg BitVec.toNat (s.readGpr_writeGpr_same r v)
  exact ⟨_, advance_of_lt below, written.trans value, rfl, ⟨rfl, rfl⟩,
    (RegisterFrame.writeGpr s r v).setPc _⟩

/-! ### The layout of an immediate -/

/-- The number of an instruction of the immediate or port layout (R60). -/
theorem encode_toNat_of_immediateOrPort {ins : Instr} {r : Reg} {value : Lit5}
    (opc : Mnemonic → BitVec 6) (layout : ins.payload = packImmediateOrPort r value) :
    (encode opc ins).toNat = (opc ins.mnemonic).toNat * 1024 + r.toNat * 256 + value.toNat := by
  rw [encode, toNat_append_eq_add, layout, packImmediateOrPort_toNat]
  omega

/-- Bits 7:5 are the reserved bits of the immediate or port layout (R60). -/
theorem immediateOrPort_reserves_bits_7_5 (junk : BitVec 3) :
    junk.setWidth 16 <<< 5 &&& ~~~ Layout.immediateOrPort.reservedMask = 0 := by
  revert junk
  decide

/-- A literal keeps its value as a word (R68). -/
theorem literal_toNat (value : Lit5) : (literal value).toNat = value.toNat :=
  BitVec.toNat_setWidth_of_le (by decide)

/-! ### AIR and SIR -/

section Immediate
variable (r : Reg) (value : Lit5) (s : State)

theorem exec_air : exec (.air r value) s = advance Config.standard s fun t =>
    t.writeGpr r (addWrap (s.readGpr r) (literal value)) := rfl

theorem exec_sir : exec (.sir r value) s = advance Config.standard s fun t =>
    t.writeGpr r (subWrap (s.readGpr r) (literal value)) := rfl

theorem addWrap_literal_toNat (x : Word) :
    (addWrap x (literal value)).toNat = (x.toNat + value.toNat) % 65536 := by
  rw [addWrap_toNat, literal_toNat]

theorem subWrap_literal_toNat (x : Word) :
    (subWrap x (literal value)).toNat = (x.toNat + (65536 - value.toNat)) % 65536 := by
  rw [subWrap_toNat, literal_toNat]

end Immediate

/-- Settles O47: both instructions write one register from its old value and the literal, and the
decoder does not read bits 7:5. -/
theorem airSirAddAndSubtractTheImmediate : Obligations.AirSirAddAndSubtractTheImmediate := by
  intro r value s
  have ignored (ins : Instr) (layout : ins.mnemonic.layout = .immediateOrPort) (junk : BitVec 3) :=
    decode_encode_or_reserved standardOpc_injective ins
      (layout ▸ immediateOrPort_reserves_bits_7_5 junk)
  rw [exec_air, exec_sir]
  exact ⟨encode_toNat_of_immediateOrPort standardOpc rfl, ignored (.air r value) rfl,
    advance_onlyWritesGpr r (addWrap_literal_toNat value _),
    fun last => advance_at_end (congrArg BitVec.toNat last),
    encode_toNat_of_immediateOrPort standardOpc rfl, ignored (.sir r value) rfl,
    advance_onlyWritesGpr r (subWrap_literal_toNat value _),
    fun last => advance_at_end (congrArg BitVec.toNat last)⟩

end Sys2Proof.Machine
end

section
/-! The complement (45_logical.md, R169): NOT is the rule of 44_arithmetic.md that writes one general
register without a memory access, with a word operation that undoes itself. -/

namespace Sys2Proof.Machine

/-! ### The complement of a word -/

theorem complement_eq_not (x : Word) : complement x = ~~~ x :=
  BitVec.xor_allOnes

/-- The complement is of the 16-bit word, so it stays in 0..65535 (R169). -/
theorem complement_toNat (x : Word) : (complement x).toNat = 65535 - x.toNat := by
  rw [complement_eq_not, BitVec.toNat_not]

@[simp] theorem complement_complement (x : Word) : complement (complement x) = x := by
  rw [complement_eq_not, complement_eq_not, BitVec.not_not]

/-! ### The register-only layout -/

/-- The number of an instruction of the register-only layout (R63). -/
theorem encode_toNat_of_registerOnly {ins : Instr} {r : Reg} (opc : Mnemonic → BitVec 6)
    (layout : ins.payload = packRegisterOnly r) :
    (encode opc ins).toNat = (opc ins.mnemonic).toNat * 1024 + r.toNat * 256 := by
  rw [encode, toNat_append_eq_add, layout, packRegisterOnly_toNat]
  omega

/-- Bits 7:0 are the reserved bits of the register-only layout (R63). -/
theorem registerOnly_reserves_bits_7_0 (junk : BitVec 8) :
    junk.setWidth 16 &&& ~~~ Layout.registerOnly.reservedMask = 0 := by
  revert junk
  decide

/-! ### NOT -/

section Rules
variable {r : Reg} {s t u : State}

theorem exec_not (r : Reg) (s : State) : exec (.not r) s = advance Config.standard s fun t =>
    t.writeGpr r (complement (s.readGpr r)) := rfl

/-- A NOT that does not fault has completed. -/
theorem readGpr_of_exec_not (h : exec (.not r) s = .next t) (completes : t.run ≠ .faulted) :
    t.readGpr r = complement (s.readGpr r) := by
  rw [exec_not] at h
  rcases advance_cases h with ⟨-, rfl⟩ | ⟨-, rfl⟩
  · exact State.readGpr_writeGpr_same ..
  · exact absurd (raise_run ..) completes

/-- Two complements, where neither NOT faults. -/
theorem readGpr_of_exec_not_twice (first : exec (.not r) s = .next t)
    (second : exec (.not r) t = .next u) (first_completes : t.run ≠ .faulted)
    (second_completes : u.run ≠ .faulted) : u.readGpr r = s.readGpr r := by
  rw [readGpr_of_exec_not second second_completes, readGpr_of_exec_not first first_completes,
    complement_complement]

end Rules

/-- Settles O52: NOT writes one register from its old value, and the decoder does not read bits 7:0.
The second NOT may be at 2047 and fault, but then its RUN is not that of `s`. -/
theorem notComplementsTheRegister : Obligations.NotComplementsTheRegister := by
  intro r s
  rw [exec_not r s]
  refine ⟨encode_toNat_of_registerOnly standardOpc rfl, fun junk => ?ignored,
    fun below => ?completes, fun last => advance_at_end (congrArg BitVec.toNat last)⟩
  case ignored =>
    exact decode_encode_or_reserved standardOpc_injective (.not r)
      (registerOnly_reserves_bits_7_0 junk)
  case completes =>
    obtain ⟨t, first, value, pc, latches, frame⟩ :=
      advance_onlyWritesGpr (c := Config.standard) r (complement_toNat (s.readGpr r)) below
    refine ⟨t, first, value, pc, latches, frame, fun u second same_run not_faulted => ?_⟩
    obtain ⟨-, -, -, -, ⟨-, run_kept, -⟩, -⟩ := frame
    exact readGpr_of_exec_not_twice first second (run_kept ▸ not_faulted) (same_run ▸ not_faulted)

end Sys2Proof.Machine
end

section
/-! The host's commands and the invariant (50_interfaces.md section 1, R206 to R212, against R25):
what every update of the state keeps of the invariant, then every shape of an instruction rule,
every instruction, the cycle, and the run by induction on its list. That no rule answers anything
but a next state is carried along. -/

namespace Sys2Proof.Machine

/-! ### The updates of the state -/

/-- R9's defaults meet what R9 requires of its parameters. -/
theorem Config.standard_admissible : Config.standard.Admissible :=
  ⟨standardOpc_injective, by decide, by decide, by decide, by decide, by decide, by decide,
    by decide, by decide⟩

/-- The default TRR keeps `CC` at 0 or 8: its bits 2..0 are 0 before, and it does not set them. -/
theorem testEqual_legal {cc : Nibble} (legal : cc = 0 ∨ cc = 8) (x y : Word) :
    testEqual cc x y = 0 ∨ testEqual cc x y = 8 := by
  unfold testEqual
  obtain rfl | rfl := legal <;> split <;> decide

namespace Invariant
variable {s t : State}

/-- An update that leaves `MFR`, `RUN` and `LC` alone need only keep memory canonical and `CC`
legal. -/
theorem of_control_kept (h : Invariant s) (memory : t.mem.wf = true)
    (cc_legal : t.cc = 0 ∨ t.cc = 8) (mfr : t.mfr = s.mfr) (run : t.run = s.run)
    (lc : t.lc = s.lc) : Invariant t where
  memory := memory
  mfr_faulted := by rw [mfr, run]; exact h.mfr_faulted
  mfr_legal := mfr ▸ h.mfr_legal
  lc_range := lc ▸ h.lc_range
  cc_legal := cc_legal

/-- Without a fault on either side, `MFR` is 0 before and after. -/
theorem of_not_faulted (h : Invariant s) (before : s.run ≠ .faulted) (after : t.run ≠ .faulted)
    (memory : t.mem = s.mem) (cc : t.cc = s.cc) (mfr : t.mfr = s.mfr) (lc : t.lc = s.lc) :
    Invariant t where
  toInvariantIn := .of_not_faulted _ (memory ▸ h.memory) (mfr ▸ h.mfr_faulted.mpr before) after
    (lc ▸ h.lc_range)
  cc_legal := cc ▸ h.cc_legal

theorem writeGpr (h : Invariant s) (r : Reg) (v : Word) : Invariant (s.writeGpr r v) :=
  h.of_control_kept h.memory h.cc_legal rfl rfl rfl

theorem writeIxr (h : Invariant s) (x : IxSel) (v : Word) : Invariant (s.writeIxr x v) :=
  h.of_control_kept h.memory h.cc_legal rfl rfl rfl

theorem writeMem (h : Invariant s) (a : Addr) (v : Word) : Invariant (s.writeMem a v) :=
  h.of_control_kept (Memory.write_wf h.memory a v) h.cc_legal rfl rfl rfl

theorem setPc (h : Invariant s) (a : Addr) : Invariant (s.setPc a) :=
  h.of_control_kept h.memory h.cc_legal rfl rfl rfl

theorem setCc_testEqual (h : Invariant s) (x y : Word) :
    Invariant (s.setCc (testEqual s.cc x y)) :=
  h.of_control_kept h.memory (testEqual_legal h.cc_legal x y) rfl rfl rfl

theorem latchAccess (h : Invariant s) (a : Addr) (v : Word) : Invariant (s.latchAccess a v) :=
  h.of_control_kept h.memory h.cc_legal rfl rfl rfl

theorem latchPointer (h : Invariant s) (e : Resolved) : Invariant (s.latchPointer e) := by
  unfold State.latchPointer
  split
  · exact h
  · exact h.latchAccess ..

theorem latchFetch (h : Invariant s) (w : Word) : Invariant (s.latchFetch w) :=
  h.of_control_kept h.memory h.cc_legal rfl rfl rfl

theorem logPort (h : Invariant s) (e : PortEvent) : Invariant (s.logPort e) :=
  h.of_control_kept h.memory h.cc_legal rfl rfl rfl

theorem stop (h : Invariant s) : Invariant s.stop :=
  h.of_control_kept h.memory h.cc_legal rfl rfl rfl

/-- A halt keeps `MFR`, which is 0 because the machine is not in a fault yet. -/
theorem halt (h : Invariant s) (not_faulted : s.run ≠ .faulted) : Invariant s.halt :=
  h.of_not_faulted not_faulted nofun rfl rfl rfl rfl

theorem takeStop (h : Invariant s) (not_faulted : s.run ≠ .faulted) : Invariant s.takeStop :=
  h.of_not_faulted not_faulted nofun rfl rfl rfl rfl

/-- The fault entry sets `MFR` and `RUN` together (R236). -/
theorem raise (h : Invariant s) (f : Fault) : Invariant (raise Config.standard f s) where
  memory := h.memory
  mfr_faulted := iff_of_false (faultCode_ne_zero Config.standard_admissible f) (not_not.mpr rfl)
  mfr_legal := legalMfr_faultCode Config.standard f
  lc_range := h.lc_range
  cc_legal := h.cc_legal

/-- The reset command is the reset state but for the location counter (R256) and the histories. -/
theorem resetCommand (h : Invariant s) (pcReset : Addr) : Invariant (s.resetCommand pcReset) where
  toInvariantIn := .of_not_faulted _ (State.resetAt_mem_wf pcReset) (State.resetAt_mfr pcReset)
    nofun h.lc_range
  cc_legal := .inl (State.resetAt_cc pcReset)

end Invariant

/-! ### `loadProgram` -/

theorem memWrite_eq_ok {n : Nat} {v : Word} {s t : State} (h : memWrite n v s = .ok t) :
    ∃ a, t = s.writeMem a v := by
  unfold memWrite at h
  split at h
  · cases h
  · exact ⟨_, (Except.ok.inj h).symm⟩

/-- Every pair of a load is a write of memory, if it is in range. -/
theorem Invariant.loadPairs {pairs : List (Nat × Nat)} {s t : State} (h : Invariant s)
    (loaded : loadPairs pairs s = .ok t) : Invariant t := by
  induction pairs generalizing s with
  | nil => exact Except.ok.inj loaded ▸ h
  | cons pair rest ih =>
    unfold Machine.loadPairs at loaded
    split at loaded
    · split at loaded
      · cases loaded
      · next written =>
        obtain ⟨a, rfl⟩ := memWrite_eq_ok written
        exact ih (h.writeMem ..) loaded
    · cases loaded

/-- A load is all of its pairs or no effect (R209). -/
theorem Invariant.loadProgram {s : State} (h : Invariant s) (pairs : List (Nat × Nat)) :
    Invariant (s.loadProgram pairs) := by
  unfold State.loadProgram
  split
  · next loaded => exact h.loadPairs loaded
  · exact h

/-! ### The shapes of an instruction rule -/

/-- The outcome `o` is a next state, and that state satisfies the invariant. -/
def AnswersInvariant (o : Outcome) : Prop := ∃ t, o = .next t ∧ Invariant t

theorem Invariant.answers {t : State} (h : Invariant t) : AnswersInvariant (.next t) :=
  ⟨t, rfl, h⟩

section Shapes
variable {s : State} {ix : IxSel} {i : Bool} {addr : Lit5}

theorem advance_answersInvariant {commit : State → State} (h : Invariant s)
    (committed : Invariant (commit s)) :
    AnswersInvariant (advance Config.standard s commit) := by
  unfold advance
  split
  · exact (h.raise _).answers
  · exact (committed.setPc _).answers

theorem withAddress_answersInvariant {k : Resolved → Outcome} (h : Invariant s)
    (rest : ∀ e, AnswersInvariant (k e)) :
    AnswersInvariant (withAddress Config.standard s ix i addr k) := by
  unfold withAddress
  split
  · exact (h.raise _).answers
  · exact rest _

theorem loadAt_answersInvariant {commit : Word → State → State} (h : Invariant s)
    (committed : ∀ v, Invariant (commit v s)) :
    AnswersInvariant (loadAt Config.standard s ix i addr commit) :=
  withAddress_answersInvariant h fun _ =>
    advance_answersInvariant h ((committed _).latchAccess ..)

theorem storeAt_answersInvariant (h : Invariant s) (v : Word) :
    AnswersInvariant (storeAt Config.standard s ix i addr v) :=
  withAddress_answersInvariant h fun e =>
    advance_answersInvariant h ((h.writeMem e.ea v).latchAccess ..)

theorem branchAt_answersInvariant {taken : Bool} {commit : State → State} (h : Invariant s)
    (committed : ∀ t, Invariant t → Invariant (commit t)) :
    AnswersInvariant (branchAt Config.standard s ix i addr taken commit) := by
  refine withAddress_answersInvariant h fun e => ?_
  have branch := committed _ (h.latchPointer e)
  split
  · exact (branch.setPc _).answers
  · exact advance_answersInvariant h branch

theorem pairOp_answersInvariant {rx ry : Reg} {check : Word → Word → Option Fault}
    {result : Word → Word → Word × Word} (h : Invariant s) :
    AnswersInvariant (pairOp Config.standard s rx ry check result) := by
  unfold pairOp
  split
  · exact (h.raise _).answers
  · split
    · exact (h.raise _).answers
    · exact advance_answersInvariant h ((h.writeGpr ..).writeGpr ..)

theorem portAsk_answersInvariant {q : PortQuery} {r : Reg} {d : Lit5} (h : Invariant s) :
    AnswersInvariant (portAsk Config.standard s q r d) :=
  advance_answersInvariant h ((h.writeGpr ..).logPort _)

/-- RFS has a shape of its own: the check of `GPR[3]`, then both writes (R141). -/
theorem execRfs_answersInvariant (h : Invariant s) : AnswersInvariant (execRfs addr s) := by
  unfold execRfs
  split
  · exact (h.raise _).answers
  · exact ((h.writeGpr ..).setPc _).answers

end Shapes

/-! ### Every instruction, and the cycle -/

/-- By the shape of each instruction's rule. Only HLT needs a state without a fault: it leaves `MFR`
as it is, and `Halted` with a fault code would break R25. -/
theorem exec_answersInvariant {s : State} (h : Invariant s) (not_faulted : s.run ≠ .faulted)
    (i : Instr) : AnswersInvariant (exec i s) := by
  cases i with
  | hlt => exact (h.halt not_faulted).answers
  | trap | setcce => exact (h.raise _).answers
  | ldr | amr | smr =>
    simp only [exec, execLdr, execAmr, execSmr]
    exact loadAt_answersInvariant h fun _ => h.writeGpr ..
  | ldx ix ind a =>
    exact iteInduction (fun _ => (h.raise _).answers)
      fun _ => loadAt_answersInvariant h fun _ => h.writeIxr ..
  | str => exact storeAt_answersInvariant h _
  | stx ix ind a =>
    exact iteInduction (fun _ => (h.raise _).answers) fun _ => storeAt_answersInvariant h _
  | jz | jne | jge | jcc | jma => exact branchAt_answersInvariant h fun _ kept => kept
  | jsr | sob => exact branchAt_answersInvariant h fun _ kept => kept.writeGpr ..
  | rfs => exact execRfs_answersInvariant h
  | mlt | dvd =>
    simp only [exec, execMlt, execDvd]
    exact pairOp_answersInvariant h
  | inp | chk => exact portAsk_answersInvariant h
  | trr rx ry =>
    simp only [exec, execTrr]
    exact advance_answersInvariant h (h.setCc_testEqual ..)
  | out =>
    simp only [exec, execOut]
    exact advance_answersInvariant h (h.logPort _)
  | lda | air | sir | and | orr | not | src | rrc =>
    simp only [exec, execLda, execAir, execSir, execAnd, execOrr, execNot, execSrc, execRrc]
    exact advance_answersInvariant h (h.writeGpr ..)
  | fadd | fsub | vadd | vsub | cnvrt | ldfr | stfr =>
    simp only [exec, execFadd, execFsub, execVadd, execVsub, execCnvrt, execLdfr, execStfr]
    exact advance_answersInvariant h h

/-- By what the cycle can do; an instruction is dispatched from a ready state only. -/
theorem step_answersInvariant {s : State} (h : Invariant s) : AnswersInvariant (step s) := by
  have fetched := h.latchFetch s.fetch
  obtain ⟨-, stays⟩ | ⟨ready, -, halts⟩ | ⟨-, -, faults⟩ | ⟨i, _, ready, -, -, executes⟩ :=
    cycle_cases (rfl : step s = step s)
  · exact ⟨_, stays, h⟩
  · exact ⟨_, halts, h.halt (by simp [ready])⟩
  · exact ⟨_, faults, fetched.raise _⟩
  · exact executes ▸ exec_answersInvariant fetched (by simp [ready]) i

/-! ### The run -/

/-- A run of any step function that answers so answers so: the stop request is acted on in a ready
state, and its arrival sets the latch only. -/
theorem runWith_answersInvariant {stp : State → Outcome}
    (steps : ∀ {s}, Invariant s → AnswersInvariant (stp s)) (arrivals : List Bool) {s : State}
    (h : Invariant s) : AnswersInvariant (runWith stp arrivals s) := by
  induction arrivals generalizing s with
  | nil => exact h.answers
  | cons arrives rest ih =>
    unfold runWith
    split
    · exact h.answers
    · exact h.answers
    · next ready =>
      split
      · exact (h.takeStop (by simp [ready])).answers
      · obtain ⟨t, stepped, kept⟩ := steps h
        simp only [stepped]
        cases arrives with
        | true => exact ih kept.stop
        | false => exact ih kept

/-- Settles O22: a command is an update of the state, a step, or a run of steps. -/
theorem commandsKeepTheInvariant : Obligations.CommandsKeepTheInvariant := by
  intro cmd s h
  cases cmd with
  | reset => exact (h.resetCommand _).answers
  | loadProgram pairs => exact (h.loadProgram pairs).answers
  | step => exact step_answersInvariant h
  | run arrivals => exact runWith_answersInvariant step_answersInvariant arrivals h
  | stop => exact h.stop.answers

end Sys2Proof.Machine
end

section
/-! What executing an instruction can answer, said once for every configuration: the halt of HLT, a
fault entry, or a commit with its frame and the next PC. Which instruction may write memory, an index
register, CC or the PC is read off from it. -/

namespace Sys2Proof.Machine

/-- What the commit phase of the instruction `i` may change from `s` to `t`, before the PC is set:
the general registers, MAR, MBR and the port history freely, and memory, the index registers and CC
by the instructions that own them only (R12, R14, R19). -/
structure CommitFrame (i : Instr) (s t : State) : Prop where
  mem : t.mem = s.mem ∨ (i.mnemonic = .str ∨ i.mnemonic = .stx) ∧
    ∃ (a : Addr) (v : Word), t.mem = s.mem.write a.toNat v
  ixr : t.ixr = s.ixr ∨ ∃ x ind addr v, i = .ldx x ind addr ∧ t.ixr = (s.writeIxr x v).ixr
  cc : i.mnemonic ≠ .trr → t.cc = s.cc
  control : ControlKept s t
  trace : t.trace = s.trace

namespace CommitFrame
variable {i : Instr} {s t : State}

theorem refl (i : Instr) (s : State) : CommitFrame i s s :=
  ⟨.inl rfl, .inl rfl, fun _ => rfl, ⟨rfl, rfl, rfl, rfl, rfl⟩, rfl⟩

theorem writeGpr (h : CommitFrame i s t) (r : Reg) (v : Word) : CommitFrame i s (t.writeGpr r v) :=
  ⟨h.mem, h.ixr, h.cc, h.control, h.trace⟩

theorem latchAccess (h : CommitFrame i s t) (a : Addr) (v : Word) :
    CommitFrame i s (t.latchAccess a v) :=
  ⟨h.mem, h.ixr, h.cc, h.control, h.trace⟩

theorem latchPointer (h : CommitFrame i s t) (e : Resolved) :
    CommitFrame i s (t.latchPointer e) := by
  unfold State.latchPointer
  split
  · exact h
  · exact h.latchAccess ..

theorem logPort (h : CommitFrame i s t) (e : PortEvent) : CommitFrame i s (t.logPort e) :=
  ⟨h.mem, h.ixr, h.cc, h.control, h.trace⟩

theorem setCc_of_trr (trr : i.mnemonic = .trr) (s : State) (v : Nibble) :
    CommitFrame i s (s.setCc v) :=
  { refl i s with cc := fun other => absurd trr other }

theorem writeMem_of_store (store : i.mnemonic = .str ∨ i.mnemonic = .stx) (s : State) (a : Addr)
    (v : Word) : CommitFrame i s (s.writeMem a v) :=
  { refl i s with mem := .inr ⟨store, a, v, rfl⟩ }

theorem writeIxr_of_ldx (x : IxSel) (ind : Bool) (addr : Lit5) (s : State) (v : Word) :
    CommitFrame (.ldx x ind addr) s (s.writeIxr x v) :=
  { refl _ s with ixr := .inr ⟨x, ind, addr, v, rfl, rfl⟩ }

end CommitFrame

/-- The instruction `i` is a DVD of even registers whose divisor is zero in `s` (R157, R232). -/
def DividesByZero (i : Instr) (s : State) : Prop :=
  ∃ rx ry, i = .dvd rx ry ∧ rx.toNat % 2 = 0 ∧ ry.toNat % 2 = 0 ∧ s.readGpr ry = 0

/-- The states that the instruction `i` can answer in the state `s`. -/
inductive CanAnswer (c : Config) (i : Instr) (s : State) : State → Prop
  | halts (h : i = .hlt) : CanAnswer c i s s.halt
  | faults (f : Fault) (divide : f = .divideByZero → DividesByZero i s) :
    CanAnswer c i s (raise c f s)
  | completes {t : State} (frame : CommitFrame i s t) (a : Addr)
    (pc : isTransfer i = false → s.pc.toNat < maxAddr ∧ a = s.pc + 1) :
    CanAnswer c i s (t.setPc a)

/-- The outcome `o` is a next state, and one that the instruction `i` can answer. -/
def AnswersWithin (c : Config) (i : Instr) (s : State) (o : Outcome) : Prop :=
  ∃ t, o = .next t ∧ CanAnswer c i s t

/-! ### The shapes of an instruction rule -/

section Shapes
variable {c : Config} {i : Instr} {s : State} {ix : IxSel} {ind : Bool} {addr : Lit5}

theorem raise_answersWithin {f : Fault} (divide : f = .divideByZero → DividesByZero i s) :
    AnswersWithin c i s (.next (raise c f s)) :=
  ⟨_, rfl, .faults f divide⟩

theorem advance_answersWithin {commit : State → State} (frame : CommitFrame i s (commit s)) :
    AnswersWithin c i s (advance c s commit) := by
  unfold advance
  split
  · next no_successor =>
    obtain ⟨-, rfl⟩ := successor_error_iff.mp no_successor
    exact raise_answersWithin nofun
  · next has_successor =>
    exact ⟨_, rfl, .completes frame _ fun _ => successor_ok_iff.mp has_successor⟩

theorem withAddress_answersWithin {k : Resolved → Outcome}
    (rest : ∀ e, AnswersWithin c i s (k e)) :
    AnswersWithin c i s (withAddress c s ix ind addr k) := by
  unfold withAddress
  split
  · next bad =>
    refine raise_answersWithin fun divide => ?_
    obtain ⟨-, rfl⟩ | ⟨-, _, -, -, rfl⟩ := resolve_error_cases bad <;> cases divide
  · exact rest _

theorem loadAt_answersWithin {commit : Word → State → State}
    (frame : ∀ v, CommitFrame i s (commit v s)) :
    AnswersWithin c i s (loadAt c s ix ind addr commit) :=
  withAddress_answersWithin fun _ => advance_answersWithin ((frame _).latchAccess ..)

theorem storeAt_answersWithin (store : i.mnemonic = .str ∨ i.mnemonic = .stx) (v : Word) :
    AnswersWithin c i s (storeAt c s ix ind addr v) :=
  withAddress_answersWithin fun e =>
    advance_answersWithin ((CommitFrame.writeMem_of_store store s e.ea v).latchAccess ..)

theorem branchAt_answersWithin {taken : Bool} {commit : State → State}
    (transfer : isTransfer i = true)
    (frame : ∀ t, CommitFrame i s t → CommitFrame i s (commit t)) :
    AnswersWithin c i s (branchAt c s ix ind addr taken commit) := by
  refine withAddress_answersWithin fun e => ?_
  have branch := frame _ ((CommitFrame.refl i s).latchPointer e)
  split
  · exact ⟨_, rfl, .completes branch e.ea fun other => by simp [transfer] at other⟩
  · exact advance_answersWithin branch

theorem portAsk_answersWithin {q : PortQuery} {r : Reg} {d : Lit5} :
    AnswersWithin c i s (portAsk c s q r d) :=
  advance_answersWithin (((CommitFrame.refl i s).writeGpr ..).logPort _)

/-- RFS has a shape of its own: the check of `GPR[3]`, then both writes (R141). -/
theorem execRfs_answersWithin : AnswersWithin c (.rfs addr) s (execRfs addr s c) := by
  unfold execRfs
  split
  · next large =>
    obtain ⟨-, rfl⟩ := checkAddr_error_iff.mp large
    exact raise_answersWithin nofun
  · exact ⟨_, rfl, .completes ((CommitFrame.refl _ s).writeGpr ..) _ nofun⟩

/-- The parity test of MLT and DVD passes (R157), over numbers. -/
theorem evenFields_iff (rx ry : Reg) :
    (oddField rx || oddField ry) = false ↔ rx.toNat % 2 = 0 ∧ ry.toNat % 2 = 0 := by
  rw [Bool.eq_false_iff, ne_eq, oddFields_iff]
  omega

theorem pairOp_answersWithin {rx ry : Reg} {check : Word → Word → Option Fault}
    {result : Word → Word → Word × Word}
    (divide : rx.toNat % 2 = 0 → ry.toNat % 2 = 0 →
      check (s.readGpr rx) (s.readGpr ry) = some .divideByZero → DividesByZero i s) :
    AnswersWithin c i s (pairOp c s rx ry check result) := by
  cases parity : oddField rx || oddField ry with
  | true => exact pairOp_of_odd parity ▸ raise_answersWithin nofun
  | false =>
    obtain ⟨even_x, even_y⟩ := (evenFields_iff rx ry).mp parity
    cases checked : check (s.readGpr rx) (s.readGpr ry) with
    | none =>
      rw [pairOp_of_check_none parity checked]
      exact advance_answersWithin (((CommitFrame.refl i s).writeGpr ..).writeGpr ..)
    | some f =>
      rw [pairOp_of_check_some parity checked]
      exact raise_answersWithin fun zero => divide even_x even_y (zero ▸ checked)

end Shapes

/-! ### Every instruction -/

theorem execDvd_answersWithin (c : Config) (rx ry : Reg) (s : State) :
    AnswersWithin c (.dvd rx ry) s (execDvd rx ry s c) := by
  refine pairOp_answersWithin fun even_x even_y zero => ⟨rx, ry, rfl, even_x, even_y, ?_⟩
  by_contra nonzero
  cases (if_neg nonzero).symm.trans zero

/-- By the shape of each instruction's rule. -/
theorem execIn_answersWithin (c : Config) (i : Instr) (s : State) :
    AnswersWithin c i s (execIn c i s) := by
  have unchanged := CommitFrame.refl i s
  cases i with
  | hlt => exact ⟨_, rfl, .halts rfl⟩
  | trap | setcce => exact raise_answersWithin nofun
  | ldr | amr | smr =>
    simp only [execIn, execLdr, execAmr, execSmr]
    exact loadAt_answersWithin fun _ => unchanged.writeGpr ..
  | ldx =>
    exact iteInduction (fun _ => raise_answersWithin nofun)
      fun _ => loadAt_answersWithin fun _ => CommitFrame.writeIxr_of_ldx ..
  | str => exact storeAt_answersWithin (.inl rfl) _
  | stx =>
    exact iteInduction (fun _ => raise_answersWithin nofun)
      fun _ => storeAt_answersWithin (.inr rfl) _
  | jz | jne | jge | jcc | jma => exact branchAt_answersWithin rfl fun _ frame => frame
  | jsr | sob => exact branchAt_answersWithin rfl fun _ frame => frame.writeGpr ..
  | rfs => exact execRfs_answersWithin
  | mlt =>
    simp only [execIn, execMlt]
    exact pairOp_answersWithin nofun
  | dvd rx ry => exact execDvd_answersWithin c rx ry s
  | inp | chk => exact portAsk_answersWithin
  | trr =>
    simp only [execIn, execTrr]
    exact advance_answersWithin (CommitFrame.setCc_of_trr rfl ..)
  | out =>
    simp only [execIn, execOut]
    exact advance_answersWithin (unchanged.logPort _)
  | lda | air | sir | and | orr | not | src | rrc =>
    simp only [execIn, execLda, execAir, execSir, execAnd, execOrr, execNot, execSrc, execRrc]
    exact advance_answersWithin (unchanged.writeGpr ..)
  | fadd | fsub | vadd | vsub | cnvrt | ldfr | stfr =>
    simp only [execIn, execFadd, execFsub, execVadd, execVsub, execCnvrt, execLdfr, execStfr]
    exact advance_answersWithin unchanged

theorem canAnswer_of_execIn {c : Config} {i : Instr} {s t : State} (h : execIn c i s = .next t) :
    CanAnswer c i s t := by
  obtain ⟨u, answered, within⟩ := execIn_answersWithin c i s
  cases answered.symm.trans h
  exact within

theorem canAnswer_of_exec {i : Instr} {s t : State} (h : exec i s = .next t) :
    CanAnswer Config.standard i s t :=
  canAnswer_of_execIn (exec_eq_execIn i s ▸ h)

/-! ### Which instruction may change what -/

section Owners
variable {c : Config} {i : Instr} {s t : State}

theorem CanAnswer.mem (h : CanAnswer c i s t) :
    t.mem = s.mem ∨ (i.mnemonic = .str ∨ i.mnemonic = .stx) ∧
      ∃ (a : Addr) (v : Word), t.mem = s.mem.write a.toNat v := by
  cases h with
  | halts | faults => exact .inl rfl
  | completes frame => exact frame.mem

theorem CanAnswer.cc (h : CanAnswer c i s t) (other : i.mnemonic ≠ .trr) : t.cc = s.cc := by
  cases h with
  | halts | faults => rfl
  | completes frame => exact frame.cc other

theorem CanAnswer.ixr (h : CanAnswer c i s t) :
    t.ixr = s.ixr ∨ ∃ x ind addr v, i = .ldx x ind addr ∧ t.ixr = (s.writeIxr x v).ixr := by
  cases h with
  | halts | faults => exact .inl rfl
  | completes frame => exact frame.ixr

theorem CanAnswer.stopReq (h : CanAnswer c i s t) : t.stopReq = s.stopReq := by
  cases h with
  | halts | faults => rfl
  | completes frame =>
    obtain ⟨-, -, -, stop_kept, -⟩ := frame.control
    exact stop_kept

/-- Only HLT halts: any other instruction leaves RUN or faults. -/
theorem CanAnswer.run_of_ne_hlt (h : CanAnswer c i s t) (other : i ≠ .hlt) :
    t.run = s.run ∨ t.run = .faulted := by
  cases h with
  | halts hlt => exact absurd hlt other
  | faults => exact .inr rfl
  | completes frame =>
    obtain ⟨-, run_kept, -⟩ := frame.control
    exact .inl run_kept

end Owners

/-- The index selectors read the stored registers only. -/
theorem State.readIxr_of_ixr {s t : State} (h : t.ixr = s.ixr) (x : IxSel) :
    t.readIxr x = s.readIxr x := by
  simp only [State.readIxr, h]

/-- Settles O23: the frame names the two stores. -/
theorem onlyStoresWriteMemory : Obligations.OnlyStoresWriteMemory := by
  intro i s t not_str not_stx h a
  obtain kept | ⟨str | stx, -⟩ := (canAnswer_of_exec h).mem
  · rw [State.readMem, State.readMem, kept]
  · exact absurd str not_str
  · exact absurd stx not_stx

/-- Settles O24: the frame names TRR. -/
theorem onlyTrrWritesTheConditionCode : Obligations.OnlyTrrWritesTheConditionCode :=
  fun _ _ _ other h => (canAnswer_of_exec h).cc other

/-- Settles O25: the frame names LDX, and its write of one register is not seen at another. -/
theorem onlyLdxWritesIndexRegisters : Obligations.OnlyLdxWritesIndexRegisters := by
  intro i s t x h changed
  obtain kept | ⟨y, ind, addr, v, rfl, written⟩ := (canAnswer_of_exec h).ixr
  · exact absurd (State.readIxr_of_ixr kept x) changed
  · have read := State.readIxr_of_ixr written x
    rw [State.readIxr_writeIxr] at read
    by_cases same : x = y
    · exact ⟨ind, addr, same ▸ rfl⟩
    · rw [if_neg fun named => same named.1] at read
      exact absurd read changed

/-- Settles O28: outside the transfer family a completed instruction sets the PC to its successor,
which is checked, so the increment does not wrap. -/
theorem onlyTransfersSetThePc : Obligations.OnlyTransfersSetThePc := by
  intro i s t not_transfer h
  cases canAnswer_of_exec h with
  | halts hlt => exact .inl ⟨rfl, .inl hlt⟩
  | faults => exact .inl ⟨rfl, .inr rfl⟩
  | completes frame a pc =>
    obtain ⟨below, rfl⟩ := pc not_transfer
    have no_wrap : (s.pc + 1).toNat = s.pc.toNat + 1 :=
      BitVec.toNat_add_of_lt (Nat.add_lt_of_lt_sub below)
    exact .inr ⟨below, no_wrap⟩

end Sys2Proof.Machine
end

section
/-! Steps: the invariant under every admissible configuration (R25), precise faults (R236, R237), and
which fetched word halts or divides by zero (R232, R239). -/

namespace Sys2Proof.Machine

/-! ### The invariant under a configuration -/

namespace InvariantIn
variable {c : Config} {s t : State}

/-- An update that leaves `MFR`, `RUN` and `LC` alone need only keep memory canonical. -/
theorem of_control_kept (h : InvariantIn c s) (memory : t.mem.wf = true)
    (mfr : t.mfr = s.mfr) (run : t.run = s.run) (lc : t.lc = s.lc) : InvariantIn c t where
  memory := memory
  mfr_faulted := by rw [mfr, run]; exact h.mfr_faulted
  mfr_legal := mfr ▸ h.mfr_legal
  lc_range := lc ▸ h.lc_range

theorem latchFetch (h : InvariantIn c s) (w : Word) : InvariantIn c (s.latchFetch w) :=
  h.of_control_kept h.memory rfl rfl rfl

theorem halt (h : InvariantIn c s) (not_faulted : s.run ≠ .faulted) : InvariantIn c s.halt :=
  .of_not_faulted c h.memory (h.mfr_faulted.mpr not_faulted) nofun h.lc_range

/-- An admissible fault code is not 0 (R235). -/
theorem raise (h : InvariantIn c s) (admissible : c.Admissible) (f : Fault) :
    InvariantIn c (raise c f s) where
  memory := h.memory
  mfr_faulted := iff_of_false (faultCode_ne_zero admissible f) (not_not.mpr rfl)
  mfr_legal := legalMfr_faultCode c f
  lc_range := h.lc_range

end InvariantIn

/-- A commit writes memory at an address that exists, or not at all. -/
theorem CommitFrame.mem_wf {i : Instr} {s t : State} (h : CommitFrame i s t)
    (canonical : s.mem.wf = true) : t.mem.wf = true := by
  obtain kept | ⟨-, a, v, written⟩ := h.mem
  · exact kept ▸ canonical
  · exact written ▸ Memory.write_wf canonical a v

theorem CanAnswer.invariantIn {c : Config} {i : Instr} {s t : State} (h : CanAnswer c i s t)
    (admissible : c.Admissible) (before : InvariantIn c s) (not_faulted : s.run ≠ .faulted) :
    InvariantIn c t := by
  cases h with
  | halts => exact before.halt not_faulted
  | faults f => exact before.raise admissible f
  | completes frame =>
    obtain ⟨mfr, run, -, -, lc⟩ := frame.control
    exact before.of_control_kept (frame.mem_wf before.memory) mfr run lc

/-- Settles O21: by what the cycle can do; an instruction is dispatched from a ready state only. -/
theorem configuredStepKeepsTheInvariant : Obligations.ConfiguredStepKeepsTheInvariant := by
  intro c admissible s t before stepped
  have fetched := before.latchFetch s.fetch
  obtain ⟨-, stays⟩ | ⟨ready, -, halts⟩ | ⟨-, -, faults⟩ | ⟨i, _, ready, -, -, executes⟩ :=
    cycle_cases stepped
  · cases stays
    exact before
  · cases halts
    exact before.halt (by simp [ready])
  · cases faults
    exact fetched.raise admissible _
  · exact (canAnswer_of_execIn executes.symm).invariantIn admissible fetched (by simp [ready])

/-- Settles O20: the standard step answers one next state, which keeps the invariant. -/
theorem stepKeepsTheInvariant : Obligations.StepKeepsTheInvariant := by
  intro s t before stepped
  obtain ⟨u, answered, after⟩ := step_answersInvariant before
  cases answered.symm.trans stepped
  exact after

/-! ### Precise faults -/

/-- A ready step that faults is the fault entry on the state after the fetch latches. -/
theorem stepIn_faulted {c : Config} {s t : State} (ready : s.run = .ready)
    (stepped : stepIn c s = .next t) (faulted : t.run = .faulted) :
    ∃ f, t = raise c f (s.latchFetch s.fetch) := by
  obtain ⟨not_ready, -⟩ | ⟨-, -, halts⟩ | ⟨-, -, faults⟩ | ⟨i, _, -, -, -, executes⟩ :=
    cycle_cases stepped
  · exact absurd ready not_ready
  · cases halts
    cases faulted
  · cases faults
    exact ⟨_, rfl⟩
  · cases canAnswer_of_execIn executes.symm with
    | halts => cases faulted
    | faults f => exact ⟨f, rfl⟩
    | completes frame =>
      obtain ⟨-, run_kept, -⟩ := frame.control
      cases ready.symm.trans (run_kept.symm.trans faulted)

/-- Settles O17: the fault entry writes MFR and RUN, the fetch the three latches. -/
theorem faultsArePreciseAndKeepThePc : Obligations.FaultsArePreciseAndKeepThePc := by
  intro c s t ready stepped faulted
  obtain ⟨f, rfl⟩ := stepIn_faulted ready stepped faulted
  have code : faultCode c f = c.mfrUnknownOpcode ∨ faultCode c f = c.mfrDivideByZero ∨
      faultCode c f = c.mfrAddressRange := by
    cases f with
    | unknownOpcode => exact .inl rfl
    | divideByZero => exact .inr (.inl rfl)
    | addressOutOfRange => exact .inr (.inr rfl)
  exact ⟨rfl, rfl, rfl, rfl, code, rfl, rfl, rfl, rfl, rfl, rfl, rfl, rfl⟩

/-! ### What a ready step of the standard machine does, by the fetched word -/

/-- The opcode field of a word is that of the instruction it decodes to. -/
theorem opField_of_decode {opc : Mnemonic → BitVec 6} {w : Word} {i : Instr} {canonical : Bool}
    (h : decode opc w = .known i canonical) : opc i.mnemonic = opField w := by
  obtain ⟨-, unknown⟩ | ⟨m, found, known⟩ := decode_cases opc w
  · cases unknown.symm.trans h
  · cases known.symm.trans h
    rw [Instr.mnemonic_ofWord]
    exact lookupOpcode_some found

theorem Instr.mnemonic_eq_hlt_iff {i : Instr} : i.mnemonic = .hlt ↔ i = .hlt := by
  cases i <;> simp [Instr.mnemonic]

/-- Only the opcode value 0 reads as HLT (R53). -/
theorem eq_hlt_iff_of_decode {w : Word} {i : Instr} {canonical : Bool}
    (h : decode standardOpc w = .known i canonical) : i = .hlt ↔ opField w = 0 := by
  rw [← opField_of_decode h, ← Instr.mnemonic_eq_hlt_iff]
  exact (standardOpc_injective.eq_iff (b := .hlt)).symm

/-- The opcode value of an unknown word is not 0, which HLT has. -/
theorem opField_ne_zero_of_unknown {w : Word} {op : BitVec 6}
    (h : decode standardOpc w = .unknown op) : opField w ≠ 0 := by
  intro zero
  have found := lookupOpcode_of_injective standardOpc_injective .hlt
  obtain ⟨missing, -⟩ | ⟨_, -, known⟩ := decode_cases standardOpc w
  · rw [zero] at missing
    cases missing.symm.trans found
  · cases known.symm.trans h

/-- A ready step halts on the zero word, faults on an unknown one, and otherwise executes the
instruction. -/
theorem step_cases {s t : State} (ready : s.run = .ready) (stepped : step s = .next t) :
    (s.fetch = 0 ∧ t = s.halt) ∨
    (∃ op, decode standardOpc s.fetch = .unknown op ∧
      t = raise Config.standard .unknownOpcode (s.latchFetch s.fetch)) ∨
    (∃ i canonical, decode standardOpc s.fetch = .known i canonical ∧
      exec i (s.latchFetch s.fetch) = .next t) := by
  by_cases zero : s.fetch = 0
  · cases (cycle_of_fetch_zero ready zero).symm.trans stepped
    exact .inl ⟨zero, rfl⟩
  · right
    have decoded := (cycle_of_fetch_ne_zero ready zero).symm.trans stepped
    cases reading : decode standardOpc s.fetch with
    | unknown op =>
      cases (decodeAndExecute_of_unknown reading).symm.trans decoded
      exact .inl ⟨op, rfl, rfl⟩
    | known i canonical =>
      exact .inr ⟨i, canonical, rfl, (decodeAndExecute_of_known rfl rfl reading).symm.trans decoded⟩

/-! ### The halt -/

/-- What a halt leaves unchanged of the state before the fetch, and the record it emits. -/
def HaltFrame (s t : State) : Prop :=
  t.pc = s.pc ∧ t.mfr = s.mfr ∧ t.cc = s.cc ∧ t.gpr = s.gpr ∧ t.ixr = s.ixr ∧ t.mem = s.mem ∧
    t.trace = .halt :: s.trace

theorem haltFrame_halt (s : State) : HaltFrame s s.halt := ⟨rfl, rfl, rfl, rfl, rfl, rfl, rfl⟩

theorem haltFrame_halt_latchFetch (s : State) (w : Word) : HaltFrame s (s.latchFetch w).halt :=
  ⟨rfl, rfl, rfl, rfl, rfl, rfl, rfl⟩

/-- Settles O26: the zero word and the non-canonical HLT words are those with opcode field 0, and no
other word's instruction halts. -/
theorem haltExactlyOnOpcodeZero : Obligations.HaltExactlyOnOpcodeZero := by
  intro s t ready stepped
  obtain ⟨zero, rfl⟩ | ⟨op, unknown, rfl⟩ | ⟨i, canonical, known, executes⟩ :=
    step_cases ready stepped
  · exact ⟨iff_of_true rfl (zero ▸ rfl), fun _ => haltFrame_halt s⟩
  · exact ⟨iff_of_false nofun (opField_ne_zero_of_unknown unknown), nofun⟩
  · rw [← eq_hlt_iff_of_decode known]
    by_cases hlt : i = .hlt
    · subst hlt
      cases executes
      exact ⟨iff_of_true rfl rfl, fun _ => haltFrame_halt_latchFetch s _⟩
    · have not_halted : t.run ≠ .halted := by
        obtain run_kept | faulted := (canAnswer_of_exec executes).run_of_ne_hlt hlt
        · simp [run_kept, ready]
        · simp [faulted]
      exact ⟨iff_of_false not_halted hlt, fun halted => absurd halted not_halted⟩

/-! ### The divide fault -/

theorem exec_dvd (rx ry : Reg) (s : State) : exec (.dvd rx ry) s =
    pairOp Config.standard s rx ry (fun _ d => if d = 0 then some .divideByZero else none)
      divide := rfl

/-- DVD of even registers by zero faults, whatever the PC (R232). -/
theorem exec_dvd_of_zero {rx ry : Reg} {s : State} (even_x : rx.toNat % 2 = 0)
    (even_y : ry.toNat % 2 = 0) (zero : s.readGpr ry = 0) :
    exec (.dvd rx ry) s = .next (raise Config.standard .divideByZero s) := by
  rw [exec_dvd]
  exact pairOp_of_check_some ((evenFields_iff rx ry).mpr ⟨even_x, even_y⟩) (if_pos zero)

/-- The default fault codes are distinct, so MFR names the divide fault. -/
theorem faultCode_eq_mfrDivideByZero {f : Fault}
    (h : faultCode Config.standard f = Config.standard.mfrDivideByZero) : f = .divideByZero := by
  cases f with
  | unknownOpcode => exact absurd h (by decide)
  | divideByZero => rfl
  | addressOutOfRange => exact absurd h Config.standard_admissible.divideByZero_ne_addressRange.symm

/-- A step from a state that is not faulted ends in the divide fault only by such a DVD. -/
theorem CanAnswer.dividesByZero {i : Instr} {s t : State} (h : CanAnswer Config.standard i s t)
    (not_faulted : s.run ≠ .faulted) (faulted : t.run = .faulted)
    (code : t.mfr = Config.standard.mfrDivideByZero) : DividesByZero i s := by
  cases h with
  | halts => cases faulted
  | faults f divide => exact divide (faultCode_eq_mfrDivideByZero code)
  | completes frame =>
    obtain ⟨-, run_kept, -⟩ := frame.control
    exact absurd (run_kept.symm.trans faulted) not_faulted

/-- Settles O27: forward by the cause of the fault, backward by the rule of DVD. -/
theorem divideFaultOnlyFromDvdByZero : Obligations.DivideFaultOnlyFromDvdByZero := by
  intro s t ready stepped
  constructor
  · rintro ⟨faulted, code⟩
    obtain ⟨-, rfl⟩ | ⟨op, -, rfl⟩ | ⟨i, canonical, known, executes⟩ := step_cases ready stepped
    · cases faulted
    · exact nomatch faultCode_eq_mfrDivideByZero (f := .unknownOpcode) code
    · obtain ⟨rx, ry, rfl, even_x, even_y, zero⟩ :=
        (canAnswer_of_exec executes).dividesByZero (by simp [ready]) faulted code
      exact ⟨rx, ry, canonical, known, even_x, even_y, zero⟩
  · rintro ⟨rx, ry, canonical, known, even_x, even_y, zero⟩
    have nonzero : s.fetch ≠ 0 := by
      intro fetched_zero
      cases (fetched_zero ▸ eq_hlt_iff_of_decode known).mpr rfl
    have executes := stepRunsTheDecodedInstruction s _ canonical ready nonzero known
    cases stepped.symm.trans (executes.trans (exec_dvd_of_zero even_x even_y zero))
    exact ⟨rfl, rfl⟩

end Sys2Proof.Machine
end

section
/-! Reserved bits (30_encoding.md section 5, D15) under any opcode assignment, and the default opcode
table's gaps (R53). -/

namespace Sys2Proof

/-- Clearing the reserved bits of a layout leaves the opcode field. -/
theorem opField_and_not_reservedMask (l : Layout) (w : Word) :
    opField (w &&& ~~~ l.reservedMask) = opField w := by
  rw [← opField_append_payload, opField_append]

/-- Reading a word under a mnemonic does not see the reserved bits of its layout: the fields packed
again are read back as the same instruction, with no reserved bit set. -/
theorem ofWord_and_not_reservedMask (m : Mnemonic) (w : Word) :
    Instr.ofWord m (w &&& ~~~ m.layout.reservedMask) = Instr.ofWord m w ∧
      m.layout.canonical (w &&& ~~~ m.layout.reservedMask) = true := by
  have read_back := (Instr.ofWord m w).payload_readBack (opField w)
  rwa [Instr.mnemonic_ofWord, Instr.payload_ofWord, opField_append_payload] at read_back

/-- Settles O4: neither the opcode nor the fields of the instruction are reserved bits. -/
theorem reservedBitsAreNotRead : Obligations.ReservedBitsAreNotRead := by
  intro opc w i canonical h
  obtain ⟨-, unknown⟩ | ⟨m, found, known⟩ := decode_cases opc w
  · cases unknown.symm.trans h
  · cases known.symm.trans h
    obtain ⟨same, cleared⟩ := ofWord_and_not_reservedMask m w
    simp only [Instr.mnemonic_ofWord, decode, opField_and_not_reservedMask, found, same, cleared]

/-- The opcode values that the default table does not assign (R53). -/
theorem lookupOpcode_standard_eq_none_iff (op : BitVec 6) :
    lookupOpcode standardOpc op = none ↔
      op.toNat ∈ [22, 23, 32, 35, 37, 38, 39, 42, 43, 44, 45, 46, 47, 48,
        52, 53, 54, 55, 56, 57, 58, 59, 60, 61, 62, 63] := by
  revert op
  decide

/-- Settles O5: a word is unknown exactly when the table has no mnemonic for its opcode field. -/
theorem unassignedOpcodeValues : Obligations.UnassignedOpcodeValues := by
  intro w
  rw [← lookupOpcode_standard_eq_none_iff]
  obtain ⟨missing, unknown⟩ | ⟨m, found, known⟩ := decode_cases standardOpc w
  · exact iff_of_true unknown missing
  · simp [found, known]

end Sys2Proof
end

section
/-! Loading memory (50_interfaces.md section 1, R209, R258): a load whose pairs are all in range is a
sequence of writes, any other is refused; and the image of an assembly session is of the first
kind. -/

namespace Sys2Proof.Machine

/-- The pair is an address that exists and a number that fits a word (R209). -/
def PairInRange (p : Nat × Nat) : Prop := p.1 ≤ maxAddr ∧ p.2 < 65536

/-- The number that the last pair naming the address `a` gives it, if there is one. -/
def lastValue (pairs : List (Nat × Nat)) (a : Addr) : Option Nat :=
  (pairs.reverse.find? fun p => p.1 == a.toNat).map Prod.snd

theorem lastValue_cons (p : Nat × Nat) (rest : List (Nat × Nat)) (a : Addr) :
    lastValue (p :: rest) a =
      (lastValue rest a).or (if p.1 = a.toNat then some p.2 else none) := by
  by_cases named : p.1 = a.toNat <;>
    simp [lastValue, List.find?_append, named]

theorem lastValue_eq_none {pairs : List (Nat × Nat)} {a : Addr}
    (h : ∀ p ∈ pairs, p.1 ≠ a.toNat) : lastValue pairs a = none := by
  simpa [lastValue] using h

/-! ### One pair -/

section Pair
variable {p : Nat × Nat} {rest : List (Nat × Nat)} {s : State}

theorem loadPairs_cons_of_inRange {a : Addr} {v : Word} (address : p.1 = a.toNat)
    (value : p.2 = v.toNat) :
    loadPairs (p :: rest) s = loadPairs rest (s.writeMem a v) := by
  obtain ⟨_, _⟩ := p
  simp only at address value
  subst address value
  simp [loadPairs, v.isLt]

theorem loadPairs_cons_of_not_inRange (bad : ¬ PairInRange p) :
    ∃ f, loadPairs (p :: rest) s = .error f := by
  obtain ⟨n, v⟩ := p
  unfold loadPairs
  by_cases fits : v < 65536
  · have outside : maxAddr < n := Nat.lt_of_not_le fun inside => bad ⟨inside, fits⟩
    have refused : checkAddr n = .error (.addressOutOfRange n) :=
      checkAddr_error_iff.mpr ⟨outside, rfl⟩
    exact ⟨.addressOutOfRange n, by simp [fits, memWrite, refused]⟩
  · exact ⟨_, if_neg fits⟩

/-- A pair in range as an address and a word. -/
theorem PairInRange.exists_eq (h : PairInRange p) :
    ∃ (a : Addr) (v : Word), p.1 = a.toNat ∧ p.2 = v.toNat := by
  obtain ⟨address, value⟩ := h
  simp only [maxAddr] at address
  exact ⟨.ofNat 11 p.1, .ofNat 16 p.2, (Nat.mod_eq_of_lt (by omega)).symm,
    (Nat.mod_eq_of_lt value).symm⟩

end Pair

/-! ### The whole load -/

/-- What a load leaves: memory alone differs, and each address holds the last number given to it. -/
structure Loaded (pairs : List (Nat × Nat)) (s t : State) : Prop where
  only_mem : t = { s with mem := t.mem }
  read : ∀ a : Addr, (t.readMem a).toNat = (lastValue pairs a).getD (s.readMem a).toNat

theorem loadPairs_of_inRange {pairs : List (Nat × Nat)} {s : State} (canonical : s.mem.wf = true)
    (inRange : ∀ p ∈ pairs, PairInRange p) :
    ∃ t, loadPairs pairs s = .ok t ∧ Loaded pairs s t := by
  induction pairs generalizing s with
  | nil => exact ⟨s, rfl, rfl, fun _ => rfl⟩
  | cons p rest ih =>
    obtain ⟨first, others⟩ := List.forall_mem_cons.mp inRange
    obtain ⟨a, v, address, value⟩ := first.exists_eq
    obtain ⟨t, loaded, only_mem, read⟩ := ih (s := s.writeMem a v)
      (Memory.write_wf canonical a v) others
    refine ⟨t, (loadPairs_cons_of_inRange address value).trans loaded, only_mem, fun b => ?_⟩
    rw [read, State.readMem_writeMem canonical, lastValue_cons, address, value]
    simp only [BitVec.toNat_inj, eq_comm (a := a)]
    cases lastValue rest b with
    | some n => rfl
    | none => by_cases same : b = a <;> simp [same]

theorem loadPairs_of_not_inRange {pairs : List (Nat × Nat)} {s : State}
    (bad : ∃ p ∈ pairs, ¬ PairInRange p) : ∃ f, loadPairs pairs s = .error f := by
  induction pairs generalizing s with
  | nil => simp at bad
  | cons p rest ih =>
    by_cases first : PairInRange p
    · obtain ⟨a, v, address, value⟩ := first.exists_eq
      have later : ∃ q ∈ rest, ¬ PairInRange q := by simpa [first] using bad
      rw [loadPairs_cons_of_inRange address value]
      exact ih later
    · exact loadPairs_cons_of_not_inRange first

theorem State.loadProgram_of_ok {pairs : List (Nat × Nat)} {s t : State}
    (loaded : loadPairs pairs s = .ok t) : s.loadProgram pairs = t := by
  simp only [State.loadProgram, loaded]

theorem State.loadProgram_of_error {pairs : List (Nat × Nat)} {s : State} {f : Fault}
    (refused : loadPairs pairs s = .error f) : s.loadProgram pairs = s := by
  simp only [State.loadProgram, refused]

/-- Settles O59: the load is refused or performed as a whole. -/
theorem loadProgramWritesInOrder : Obligations.LoadProgramWritesInOrder := by
  intro pairs s canonical
  have performed : perform (.loadProgram pairs) s = .next (s.loadProgram pairs) := rfl
  rw [performed]
  refine ⟨fun ⟨p, member, bad⟩ => ?refused, fun inRange => ?loaded⟩
  case refused =>
    have not_inRange : ¬ PairInRange p := by
      rintro ⟨address, value⟩
      simp only [maxAddr] at address
      omega
    obtain ⟨f, refused⟩ := loadPairs_of_not_inRange ⟨p, member, not_inRange⟩
    rw [State.loadProgram_of_error refused]
  case loaded =>
    obtain ⟨t, loaded, only_mem, read⟩ := loadPairs_of_inRange canonical fun p member =>
      have ⟨address, value⟩ := inRange p member
      (⟨address, Nat.lt_succ_of_le value⟩ : PairInRange p)
    exact ⟨t, congrArg _ (State.loadProgram_of_ok loaded), only_mem, read⟩

/-! ### The image of an assembly session -/

section Session
variable {opc : Mnemonic → BitVec 6} {lc : Nat}

/-- A line with a word of its own emits it or fails (R94). -/
theorem emit_ne_none (x : Except EncodeError Word) (lc' : Nat) : emit lc x ≠ (lc', .ok none) := by
  intro h
  obtain ⟨_, -, -, emitted⟩ | ⟨_, -, -, full⟩ | ⟨_, -, failed⟩ := emit_cases lc x
  · cases emitted.symm.trans h
  · cases full.symm.trans h
  · cases failed.symm.trans h

/-- A line that emits nothing and does not fail is a LOC, which sets a counter in range (R91). -/
theorem assembleLine_eq_none {line : Line} {lc' : Nat}
    (h : assembleLine opc lc line = (lc', .ok none)) : lc' ≤ maxAddr := by
  cases line with
  | instruction name ops => exact absurd h (emit_ne_none _ _)
  | data ops => exact absurd h (emit_ne_none _ _)
  | loc ops =>
    by_cases single : ops.length = 1
    · obtain ⟨n, rfl⟩ := List.length_eq_one_iff.mp single
      obtain fits | large := le_or_gt n maxAddr
      · cases (assembleLine_loc fits).symm.trans h
        exact fits
      · cases (assembleLine_loc_large large).symm.trans h
    · cases (assembleLine_loc_of_length_ne_one single).symm.trans h

/-- Every pair of a session is at an address that exists, and the counter ends within its range
(R94). -/
theorem assembleFrom_inRange (lines : List Line) (start : lc ≤ maxAddr + 1) :
    (assembleFrom opc lc lines).1 ≤ maxAddr + 1 ∧
      ∀ p ∈ (assembleFrom opc lc lines).2.pairs, p.1 ≤ maxAddr := by
  induction lines generalizing lc with
  | nil => exact ⟨start, nofun⟩
  | cons line rest ih =>
    unfold assembleFrom
    rcases here : assembleLine opc lc line with ⟨lc', e | _ | ⟨a, w⟩⟩
    · cases assembleLine_eq_error here
      exact ih start
    · exact ih (Nat.le_succ_of_le (assembleLine_eq_none here))
    · obtain ⟨rfl, left, rfl⟩ := assembleLine_eq_some here
      obtain ⟨counter, pairs⟩ := ih (Nat.succ_le_succ left)
      exact ⟨counter, List.forall_mem_cons.mpr ⟨left, pairs⟩⟩

end Session

theorem Listing.image_inRange {l : Listing} (h : ∀ p ∈ l.pairs, p.1 ≤ maxAddr) :
    ∀ p ∈ l.image, PairInRange p := by
  intro p member
  obtain ⟨q, emitted, rfl⟩ := List.mem_map.mp member
  exact ⟨h q emitted, q.2.isLt⟩

theorem Listing.lastValue_image_eq_none {l : Listing} {a : Addr}
    (h : ∀ p ∈ l.pairs, p.1 ≠ a.toNat) : lastValue l.image a = none := by
  refine lastValue_eq_none fun p member => ?_
  obtain ⟨q, emitted, rfl⟩ := List.mem_map.mp member
  exact h q emitted

/-- Settles O11: the image is in range, so it loads, and an address it does not name keeps its
word. -/
theorem assembledImageAlwaysLoads : Obligations.AssembledImageAlwaysLoads := by
  intro opc lc lines s start canonical
  obtain ⟨counter, pairs⟩ := assembleFrom_inRange (opc := opc) lines start
  obtain ⟨t, loaded, -, read⟩ := loadPairs_of_inRange canonical (Listing.image_inRange pairs)
  refine ⟨counter, t, loaded, State.loadProgram_of_ok loaded, fun a unnamed => ?_⟩
  have kept := read a
  rw [Listing.lastValue_image_eq_none unnamed] at kept
  exact BitVec.eq_of_toNat_eq kept

end Sys2Proof.Machine
end

section
/-! The optional tests of the fetch (R103, R105), the rules that only halt or fault (R120 to R122),
fault entry (R236), and the address fault of the addressed instructions (R38). -/

namespace Sys2Proof.Machine

/-! ### The optional tests -/

section Guards
variable {c : Config} {ex : Instr → State → Outcome} {w : Word} {t : State}

theorem decodeAndExecute_of_sentinel (guard : c.sentinelGuard = true) :
    decodeAndExecute c ex 1024 t = .next (raise c .unknownOpcode t) := by
  simp [decodeAndExecute, guard]

/-- A nonzero reserved bit is the same fault whether or not the sentinel test comes first. -/
theorem decodeAndExecute_of_strict {i : Instr} (strict : c.strictReserved = true)
    (reading : decode c.opc w = .known i false) :
    decodeAndExecute c ex w t = .next (raise c .unknownOpcode t) := by
  simp [decodeAndExecute, reading, strict]

end Guards

/-- The sentinel's word is the encoding of LDR with zero fields (R103). -/
theorem decode_sentinel : decode standardOpc 1024 = .known (.ldr 0 0 false 0) true :=
  decode_standard_of_encode (by decide)

/-- Settles O16: the two tests, and the standard configuration that has neither. -/
theorem optionalFetchGuardsFault : Obligations.OptionalFetchGuardsFault := by
  intro c s ready
  refine ⟨fun guard fetched => ?sentinel, fun i strict nonzero reading => ?strict,
    fun fetched => ?standard⟩
  case sentinel =>
    have nonzero : s.fetch ≠ 0 := by rw [fetched]; decide
    calc stepIn c s
        = decodeAndExecute c (execIn c) s.fetch (s.latchFetch s.fetch) :=
          cycle_of_fetch_ne_zero ready nonzero
      _ = .next (raise c .unknownOpcode (s.latchFetch 1024)) := by
          rw [fetched, decodeAndExecute_of_sentinel guard]
  case strict =>
    exact (cycle_of_fetch_ne_zero ready nonzero).trans (decodeAndExecute_of_strict strict reading)
  case standard =>
    have nonzero : s.fetch ≠ 0 := by rw [fetched]; decide
    have executes := stepRunsTheDecodedInstruction s _ true ready nonzero (fetched ▸ decode_sentinel)
    rw [executes, fetched]
    rfl

/-! ### Rules that only halt or fault -/

/-- Settles O18: the three codes of R235 under the standard configuration. -/
theorem faultEntryWritesCodeAndRunState : Obligations.FaultEntryWritesCodeAndRunState :=
  fun _ => ⟨rfl, rfl, fun _ => rfl⟩

theorem exec_hlt (s : State) : exec .hlt s = .next s.halt := rfl

/-- Settles O32: HLT is the halt and nothing before it. -/
theorem hltHaltsInPlace : Obligations.HltHaltsInPlace := exec_hlt

theorem exec_trap (code : Nibble) (s : State) :
    exec (.trap code) s = .next (raise Config.standard .unknownOpcode s) := rfl

theorem exec_setcce (s : State) :
    exec .setcce s = .next (raise Config.standard .unknownOpcode s) := rfl

/-- Settles O33: both are the fault entry, whatever the code. -/
theorem trapAndSetcceRaiseUnknownOpcode : Obligations.TrapAndSetcceRaiseUnknownOpcode :=
  fun s code => ⟨exec_trap code s, exec_setcce s⟩

/-! ### Address faults -/

section Rules
variable {ix : IxSel} (i : Bool) (addr : Lit5) (s : State)

/-- LDX of an index register is a load (R128). -/
theorem exec_ldx (selector : ix ≠ 0) : exec (.ldx ix i addr) s =
    loadAt Config.standard s ix i addr fun v t => t.writeIxr ix v :=
  if_neg selector

/-- STX of an index register is a store (R129). -/
theorem exec_stx (selector : ix ≠ 0) : exec (.stx ix i addr) s =
    storeAt Config.standard s ix i addr (s.readIxr ix) :=
  if_neg selector

end Rules

/-- By the shape of each addressed instruction's rule: all three resolve the address first. -/
theorem exec_of_resolve_error {i : Instr} {s : State} {ix : IxSel} {ind : Bool} {a : Lit5}
    {f : Fault} (fields : addressFields i = some (ix, ind, a))
    (bad : resolve ix ind a s = .error f) :
    exec i s = .next (raise Config.standard f s) := by
  cases i with
  | ldr | amr | smr =>
    cases fields
    simp only [exec, execLdr, execAmr, execSmr]
    exact loadAt_of_error bad
  | str =>
    cases fields
    exact storeAt_of_error bad
  | ldx =>
    obtain ⟨selector, same⟩ := Option.ite_none_left_eq_some.mp fields
    cases same
    exact (exec_ldx ind a s selector).trans (loadAt_of_error bad)
  | stx =>
    obtain ⟨selector, same⟩ := Option.ite_none_left_eq_some.mp fields
    cases same
    exact (exec_stx ind a s selector).trans (storeAt_of_error bad)
  | jz | jne | jge | jcc | jma | jsr | sob =>
    cases fields
    simp only [exec, execJz, execJne, execJge, execJcc, execJma, execJsr, execSob]
    exact branchAt_of_error bad
  | hlt | trap | setcce | lda | rfs | air | sir | mlt | dvd | trr | and | orr | not | src | rrc
  | inp | out | chk | fadd | fsub | vadd | vsub | cnvrt | ldfr | stfr => cases fields

/-- Settles O30: the fault is the resolver's, and that is an address fault. -/
theorem addressFaultsBeforeAnyEffect : Obligations.AddressFaultsBeforeAnyEffect :=
  fun _ _ _ _ _ _ fields bad =>
    ⟨exec_of_resolve_error fields bad, faultCode_of_resolve_error bad Config.standard⟩

end Sys2Proof.Machine
end

section
/-! MAR, MBR and IR have no influence (10_state.md section 6, D14), and RUN and the stop latch between
steps (40_execution_cycle.md section 4, 60_exceptions.md section 4). -/

namespace Sys2Proof.Machine

/-! ### The bookkeeping registers -/

theorem State.fetch_withoutLatches (s : State) : s.withoutLatches.fetch = s.fetch := rfl

/-- The fetch latches write all three registers, so what they held before is gone (R102). -/
theorem State.latchFetch_withoutLatches (s : State) (w : Word) :
    s.withoutLatches.latchFetch w = s.latchFetch w := rfl

theorem State.halt_withoutLatches (s : State) :
    s.withoutLatches.halt = s.halt.withoutLatches := rfl

theorem State.withoutLatches_withoutLatches (s : State) :
    s.withoutLatches.withoutLatches = s.withoutLatches := rfl

/-- In a state that is not ready nothing runs, under any configuration (R112). -/
theorem cycle_of_not_ready {c : Config} {ex : Instr → State → Outcome} {s : State}
    (not_ready : s.run ≠ .ready) : cycle c ex s = .next s := by
  cases current : s.run with
  | ready => exact absurd current not_ready
  | halted | faulted => simp only [cycle, current]

/-- Settles O31: a step that decodes overwrites the three registers before it reads anything, and the
others do not read them. -/
theorem bookkeepingRegistersAreNotRead : Obligations.BookkeepingRegistersAreNotRead := by
  intro s t h
  by_cases ready : s.run = .ready
  · have cleared_ready : s.withoutLatches.run = .ready := ready
    by_cases zero : s.fetch = 0
    · cases (cycle_of_fetch_zero ready zero).symm.trans h
      refine ⟨_, cycle_of_fetch_zero cleared_ready zero, ?_⟩
      rw [State.halt_withoutLatches, State.withoutLatches_withoutLatches]
    · have same : step s.withoutLatches = step s :=
        calc step s.withoutLatches
            = decodeAndExecute Config.standard exec s.withoutLatches.fetch
                (s.withoutLatches.latchFetch s.withoutLatches.fetch) :=
              cycle_of_fetch_ne_zero cleared_ready zero
          _ = decodeAndExecute Config.standard exec s.fetch (s.latchFetch s.fetch) := by
              rw [State.fetch_withoutLatches, State.latchFetch_withoutLatches]
          _ = step s := (cycle_of_fetch_ne_zero ready zero).symm
      exact ⟨t, same.trans h, rfl⟩
  · have cleared_not_ready : s.withoutLatches.run ≠ .ready := ready
    cases (cycle_of_not_ready ready).symm.trans h
    exact ⟨_, cycle_of_not_ready cleared_not_ready, rfl⟩

/-! ### The stop latch -/

/-- A step does not touch the latch (R240). -/
theorem stopReq_of_step {s t : State} (h : step s = .next t) : t.stopReq = s.stopReq := by
  obtain ⟨-, stays⟩ | ⟨-, -, halts⟩ | ⟨-, -, faults⟩ | ⟨i, _, -, -, -, executes⟩ := cycle_cases h
  · cases stays
    rfl
  · cases halts
    rfl
  · cases faults
    rfl
  · exact (canAnswer_of_exec executes.symm).stopReq

section Run
variable {stp : State → Outcome} {s t : State} (arrives : Bool) (rest : List Bool)

theorem runWith_of_not_ready (not_ready : s.run ≠ .ready) :
    runWith stp (arrives :: rest) s = .next s := by
  cases current : s.run with
  | ready => exact absurd current not_ready
  | halted | faulted => simp only [runWith, current]

/-- A pending stop is taken before the next step. -/
theorem runWith_of_stopReq (ready : s.run = .ready) (pending : s.stopReq = true) :
    runWith stp (arrives :: rest) s = .next s.takeStop := by
  simp only [runWith, ready, pending, if_true]

/-- Otherwise one step is performed, the request of this step is latched, and the run goes on. -/
theorem runWith_of_step (ready : s.run = .ready) (clear : s.stopReq = false)
    (stepped : stp s = .next t) :
    runWith stp (arrives :: rest) s = runWith stp rest (if arrives then t.stop else t) := by
  simp only [runWith, ready, clear, stepped, Bool.false_eq_true, if_false]

end Run

/-- Settles O60: the equations of the run, and the cycle outside `Ready`. -/
theorem runSamplesTheStopBetweenSteps : Obligations.RunSamplesTheStopBetweenSteps := by
  intro s arrives rest
  refine ⟨rfl, runWith_of_stopReq arrives rest, fun t => runWith_of_step arrives rest,
    fun t => stopReq_of_step, fun not_ready => ?_⟩
  exact ⟨fun c => cycle_of_not_ready not_ready, cycle_of_not_ready not_ready,
    runWith_of_not_ready arrives rest not_ready⟩

/-! ### The reset command -/

/-- Every register and every word of memory reads 0, and the machine is ready with no stop pending
(R255). -/
def AtSessionStart (u : State) : Prop :=
  (∀ r, u.readGpr r = 0) ∧ (∀ x, u.readIxr x = 0) ∧ (∀ a, u.readMem a = 0) ∧
    u.pc = 0 ∧ u.mar = 0 ∧ u.mbr = 0 ∧ u.ir = 0 ∧ u.cc = 0 ∧ u.mfr = 0 ∧
    u.stopReq = false ∧ u.run = .ready

theorem State.reset_atSessionStart : AtSessionStart State.reset :=
  ⟨by decide, by decide, fun _ => rfl, rfl, rfl, rfl, rfl, rfl, rfl, rfl, rfl⟩

/-- The location counter and the histories, which the command keeps (R256), are not read by it. -/
theorem State.resetCommand_atSessionStart (s : State) : AtSessionStart s.resetCommand :=
  State.reset_atSessionStart

/-- The zero word at the session start halts the first step (R101, R257). -/
theorem AtSessionStart.step_halts {u : State} (h : AtSessionStart u) : step u = .next u.halt := by
  obtain ⟨-, -, memory, -, -, -, -, -, -, -, ready⟩ := h
  exact cycle_of_fetch_zero ready (memory u.pc)

/-- Settles O58: the command and the reset state read alike. -/
theorem resetReturnsToTheSessionStart : Obligations.ResetReturnsToTheSessionStart := by
  intro s
  have started := s.resetCommand_atSessionStart
  refine ⟨_, rfl, ?_, rfl, _, started.step_halts, State.halt_run _⟩
  rintro u (rfl | rfl)
  · exact started
  · exact State.reset_atSessionStart

end Sys2Proof.Machine
end

section
/-! The rest of the load, store and transfer families (42_load_store.md, R127 to R129; 43_transfer.md,
R140 to R142): the literal load, the index register instructions, the call, the return and the loop. -/

namespace Sys2Proof.Machine

/-! ### LDA -/

theorem exec_lda (r : Reg) (ix : IxSel) (i : Bool) (addr : Lit5) (s : State) :
    exec (.lda r ix i addr) s = advance Config.standard s fun t =>
      t.writeGpr r (addWrap (literal addr) (s.readIxr ix)) := rfl

/-- The selector 0 adds nothing (R127), as it reads as 0. -/
theorem addWrap_literal_readIxr_toNat (ix : IxSel) (addr : Lit5) (s : State) :
    (addWrap (literal addr) (s.readIxr ix)).toNat =
      (addr.toNat + (if ix = 0 then 0 else (s.readIxr ix).toNat)) % 65536 := by
  rw [addWrap_toNat, literal_toNat]
  split
  · next no_register => simp [no_register]
  · rfl

/-- Settles O36: LDA writes one register and accesses no memory. -/
theorem ldaLoadsTheIndexedLiteral : Obligations.LdaLoadsTheIndexedLiteral := by
  intro r ix i addr s below
  rw [exec_lda]
  exact advance_onlyWritesGpr r (addWrap_literal_readIxr_toNat ix addr s) below

/-! ### LDX and STX -/

theorem State.readIxr_writeIxr_same {ix : IxSel} (selector : ix ≠ 0) (s : State) (v : Word) :
    (s.writeIxr ix v).readIxr ix = v := by
  rw [State.readIxr_writeIxr, if_pos ⟨rfl, selector⟩]

theorem IxrsKept.writeIxr (s : State) (ix : IxSel) (v : Word) :
    IxrsKept [ix] s (s.writeIxr ix v) := by
  intro y other
  rw [State.readIxr_writeIxr, if_neg fun same => List.ne_of_not_mem_cons other same.1]

/-- Without an index register LDX has nothing to load (R128). -/
theorem exec_ldx_zero (i : Bool) (addr : Lit5) (s : State) :
    exec (.ldx 0 i addr) s = .next (raise Config.standard .unknownOpcode s) := rfl

/-- Without an index register STX has nothing to store (R129). -/
theorem exec_stx_zero (i : Bool) (addr : Lit5) (s : State) :
    exec (.stx 0 i addr) s = .next (raise Config.standard .unknownOpcode s) := rfl

/-- Settles O37: a load that writes one index register. -/
theorem ldxLoadsTheIndexRegister : Obligations.LdxLoadsTheIndexRegister := by
  intro ix i addr s
  refine ⟨fun no_register => no_register ▸ exec_ldx_zero i addr s,
    fun e selector resolved below => ?_⟩
  rw [exec_ldx i addr s selector]
  exact ⟨_, loadAt_of_ok resolved below, State.readIxr_writeIxr_same selector s _, rfl, rfl, rfl,
    IxrsKept.writeIxr s ix _, fun _ _ => rfl, fun _ => rfl, rfl, ⟨rfl, rfl, rfl, rfl, rfl⟩,
    ⟨rfl, rfl⟩⟩

/-- Settles O38: a store of an index register, which changes no register. -/
theorem stxStoresTheIndexRegister : Obligations.StxStoresTheIndexRegister := by
  intro ix i addr s canonical
  refine ⟨fun no_register => no_register ▸ exec_stx_zero i addr s,
    fun e selector resolved below => ?_⟩
  have stored := State.readMem_writeMem_same canonical e.ea (s.readIxr ix)
  have others_kept := MemKeptBut.writeMem canonical e.ea (s.readIxr ix)
  rw [exec_stx i addr s selector]
  exact ⟨_, storeAt_of_ok resolved below, stored, others_kept, rfl, rfl, rfl, fun _ _ => rfl,
    fun _ _ => rfl, rfl, ⟨rfl, rfl, rfl, rfl, rfl⟩, ⟨rfl, rfl⟩⟩

/-! ### A transfer that writes one general register -/

/-- A write of a register that the frame lets change. -/
theorem RegisterFrame.writeGpr_of_mem {ws : List Reg} {s t : State} (h : RegisterFrame ws s t)
    {r : Reg} (changes : r ∈ ws) (v : Word) : RegisterFrame ws s (t.writeGpr r v) := by
  obtain ⟨gprs, rest⟩ := h
  refine ⟨fun q kept => ?_, rest⟩
  have other : q ≠ r := fun same => kept (same ▸ changes)
  rw [State.readGpr_writeGpr, if_neg other, gprs q kept]

/-- The outcome `o` is that of an instruction which resolved the address `e` in `s`, sets the PC to
`a`, puts the number `n` in `GPR[r]`, and changes nothing else but the pointer bookkeeping. -/
def SetsPcAndGpr (a : Addr) (r : Reg) (n : Nat) (e : Resolved) (s : State) (o : Outcome) : Prop :=
  ∃ t, o = .next t ∧ (t.readGpr r).toNat = n ∧ t.pc = a ∧ LatchesPointer e s t ∧
    RegisterFrame [r] s t

theorem setsPcAndGpr_latchPointer {v : Word} {n : Nat} (value : v.toNat = n) (a : Addr) (r : Reg)
    (e : Resolved) (s : State) :
    SetsPcAndGpr a r n e s (.next (((s.latchPointer e).writeGpr r v).setPc a)) := by
  have written := congrArg BitVec.toNat ((s.latchPointer e).readGpr_writeGpr_same r v)
  have frame := ((RegisterFrame.refl [r] s).latchPointer e).writeGpr_of_mem
    (List.mem_singleton_self r) v
  exact ⟨_, rfl, written.trans value, rfl, ⟨rfl, rfl⟩, frame.setPc a⟩

section Rules
variable (r : Reg) (ix : IxSel) (i : Bool) (addr : Lit5) (s : State)

theorem exec_jsr : exec (.jsr ix i addr) s =
    branchAt Config.standard s ix i addr true fun t =>
      t.writeGpr 3 (BitVec.ofNat 16 (s.pc.toNat + 1)) := rfl

theorem exec_sob : exec (.sob r ix i addr) s =
    branchAt Config.standard s ix i addr (isPositive (subWrap (s.readGpr r) 1)) fun t =>
      t.writeGpr r (subWrap (s.readGpr r) 1) := rfl

theorem exec_rfs_of_ok {a : Addr} (inRange : (s.readGpr 3).toNat = a.toNat) :
    exec (.rfs addr) s = .next ((s.writeGpr 0 (literal addr)).setPc a) := by
  simp only [exec, execRfs, inRange, checkAddr_toNat]

theorem exec_rfs_of_large (large : 2047 < (s.readGpr 3).toNat) :
    exec (.rfs addr) s =
      .next (raise Config.standard (.addressOutOfRange (s.readGpr 3).toNat) s) := by
  have refused := checkAddr_error_iff.mpr ⟨large, rfl⟩
  simp only [exec, execRfs, refused]

end Rules

/-- The link is a number up to 2048, which a word holds (R140). -/
theorem link_toNat (pc : Addr) : (BitVec.ofNat 16 (pc.toNat + 1)).toNat = pc.toNat + 1 := by
  rw [BitVec.toNat_ofNat]
  omega

/-- Settles O43: a branch that is always taken and writes the link. -/
theorem jsrLinksAndJumps : Obligations.JsrLinksAndJumps := by
  intro ix i addr s e resolved
  rw [exec_jsr, branchAt_taken resolved rfl]
  exact setsPcAndGpr_latchPointer (link_toNat s.pc) ..

/-- Settles O44: `GPR[3]` is an address or it is not. -/
theorem rfsReturnsThroughR3 : Obligations.RfsReturnsThroughR3 := by
  intro addr s
  refine ⟨fun small => ?returns, exec_rfs_of_large addr s⟩
  have inRange : (s.readGpr 3).toNat = (BitVec.ofNat 11 (s.readGpr 3).toNat).toNat :=
    (Nat.mod_eq_of_lt (Nat.lt_succ_of_le small)).symm
  have written := congrArg BitVec.toNat (s.readGpr_writeGpr_same 0 (literal addr))
  exact ⟨_, exec_rfs_of_ok addr s inRange, written.trans (literal_toNat addr), inRange.symm,
    ⟨rfl, rfl⟩, (RegisterFrame.writeGpr s 0 _).setPc _⟩

/-- Settles O45: SOB is a branch on the decremented value, which it commits taken or not. -/
theorem sobDecrementsAndLoops : Obligations.SobDecrementsAndLoops := by
  intro r ix i addr s e v resolved decremented
  have value : (subWrap (s.readGpr r) 1).toNat = v := by
    rw [subWrap_toNat, decremented]
    rfl
  have taken_iff := isPositive_iff (subWrap (s.readGpr r) 1)
  rw [value] at taken_iff
  rw [exec_sob]
  refine ⟨fun positive => ?taken, fun other below => ?untaken, fun other last => ?noSuccessor⟩
  case taken =>
    rw [branchAt_taken resolved (taken_iff.mpr positive)]
    exact setsPcAndGpr_latchPointer value ..
  all_goals
    have untaken : isPositive (subWrap (s.readGpr r) 1) = false :=
      Bool.eq_false_iff.mpr fun taken => other (taken_iff.mp taken)
  case untaken =>
    rw [branchAt_not_taken resolved untaken below]
    exact setsPcAndGpr_latchPointer value ..
  case noSuccessor => exact branchAt_at_end resolved untaken (congrArg BitVec.toNat last)

end Sys2Proof.Machine
end

section
/-! Multiplication and division (44_arithmetic.md, R157 to R161): the two results as operations on bit
vectors and over the integers, and the rule that writes a pair of registers. -/

namespace Sys2Proof.Machine

/-! ### The results -/

/-- The two halves of the product are its 32 bits, and the exact product fits (R158). -/
theorem multiply_toInt (x y : Word) :
    ((multiply x y).1 ++ (multiply x y).2).toInt = x.toInt * y.toInt := by
  have halves : (multiply x y).1 ++ (multiply x y).2 = BitVec.ofInt 32 (x.toInt * y.toInt) :=
    BitVec.extractLsb'_append_extractLsb'
  have least : -2 ^ 30 ≤ x.toInt * y.toInt := BitVec.le_toInt_mul_toInt
  have most : x.toInt * y.toInt ≤ 2 ^ 30 := BitVec.toInt_mul_toInt_le
  rw [halves, BitVec.toInt_ofInt_eq_self (by decide) (by omega) (by omega)]

/-- The default of `ALU_DVD` is the truncating division of bit vectors (R160). -/
theorem divide_eq (x y : Word) : divide x y = (x.sdiv y, x.srem y) := by
  have quotient : wrap16 (x.toInt.tdiv y.toInt) = x.sdiv y := by
    apply BitVec.eq_of_toInt_eq
    rw [wrap16, BitVec.toInt_ofInt, BitVec.toInt_sdiv]
  have remainder : wrap16 (x.toInt - x.toInt.tdiv y.toInt * y.toInt) = x.srem y := by
    rw [mul_comm, ← Int.tmod_def, ← BitVec.toInt_srem, wrap16, BitVec.ofInt_toInt]
  exact Prod.ext quotient remainder

/-- The quotient is exact but for -32768 by -1, whose quotient 32768 does not fit (R161). -/
theorem sdiv_mul_add_srem (x y : Word) (fits : ¬ (x = 0x8000 ∧ y = 0xFFFF)) :
    (x.sdiv y).toInt * y.toInt + (x.srem y).toInt = x.toInt := by
  have no_overflow : x ≠ BitVec.intMin 16 ∨ y ≠ -1#16 := not_and_or.mp fits
  rw [BitVec.toInt_sdiv_of_ne_or_ne x y no_overflow, BitVec.toInt_srem, Int.tdiv_mul_add_tmod]

theorem srem_natAbs_lt (x : Word) {y : Word} (nonzero : y ≠ 0) :
    (x.srem y).toInt.natAbs < y.toInt.natAbs := by
  have divisor : y.toInt ≠ 0 := fun zero => nonzero (BitVec.eq_of_toInt_eq zero)
  rw [BitVec.toInt_srem, Int.natAbs_tmod]
  exact Nat.mod_lt _ (Int.natAbs_pos.mpr divisor)

/-- The remainder has the sign of the dividend, if it has one. -/
theorem srem_sign (x y : Word) :
    x.srem y = 0 ∨ ((x.srem y).toInt < 0 ↔ x.toInt < 0) := by
  have sign : (x.srem y).toInt.sign = if y.toInt ∣ x.toInt then 0 else x.toInt.sign := by
    rw [BitVec.toInt_srem, Int.sign_tmod]
  by_cases divides : y.toInt ∣ x.toInt
  · rw [if_pos divides, Int.sign_eq_zero_iff_zero] at sign
    exact .inl (BitVec.eq_of_toInt_eq sign)
  · rw [if_neg divides] at sign
    exact .inr (by rw [← Int.sign_eq_neg_one_iff_neg, sign, Int.sign_eq_neg_one_iff_neg])

/-! ### The pair of registers -/

theorem succ_ne_self (r : Reg) : r + 1 ≠ r := by
  revert r
  decide

/-- The outcome `o` is that of an instruction which completes with `pair` in `GPR[rx]` and
`GPR[rx+1]` and changes nothing else but the PC. -/
def OnlyWritesPair (rx : Reg) (pair : Word × Word) (s : State) (o : Outcome) : Prop :=
  ∃ t, o = .next t ∧ t.readGpr rx = pair.1 ∧ t.readGpr (rx + 1) = pair.2 ∧
    t.pc = s.pc + 1 ∧ LatchesKept s t ∧ RegisterFrame [rx, rx + 1] s t

section Pair
variable {c : Config} {s : State} {rx ry : Reg} {check : Word → Word → Option Fault}
  {result : Word → Word → Word × Word}

/-- `pairOp` with both checks passed, below 2047. -/
theorem pairOp_onlyWritesPair (even_x : rx.toNat % 2 = 0) (even_y : ry.toNat % 2 = 0)
    (passed : check (s.readGpr rx) (s.readGpr ry) = none) (below : s.pc.toNat < 2047) :
    OnlyWritesPair rx (result (s.readGpr rx) (s.readGpr ry)) s
      (pairOp c s rx ry check result) := by
  rw [pairOp_of_check_none ((evenFields_iff rx ry).mpr ⟨even_x, even_y⟩) passed]
  have frame := (RegisterFrame.refl [rx, rx + 1] s).writeGpr_of_mem (r := rx) (by simp)
    (result (s.readGpr rx) (s.readGpr ry)).1
  refine ⟨_, advance_of_lt below, ?_, ?_, rfl, ⟨rfl, rfl⟩,
    (frame.writeGpr_of_mem (r := rx + 1) (by simp) _).setPc _⟩
  · rw [State.readGpr_setPc, State.readGpr_writeGpr, if_neg (succ_ne_self rx).symm,
      State.readGpr_writeGpr_same]
  · rw [State.readGpr_setPc, State.readGpr_writeGpr_same]

theorem pairOp_of_odd_field (odd : rx.toNat % 2 = 1 ∨ ry.toNat % 2 = 1) :
    pairOp c s rx ry check result = .next (raise c .unknownOpcode s) :=
  pairOp_of_odd ((oddFields_iff rx ry).mpr odd)

theorem pairOp_at_end (even_x : rx.toNat % 2 = 0) (even_y : ry.toNat % 2 = 0)
    (passed : check (s.readGpr rx) (s.readGpr ry) = none) (last : s.pc.toNat = maxAddr) :
    pairOp c s rx ry check result = .next (raise c (.addressOutOfRange 2048) s) := by
  rw [pairOp_of_check_none ((evenFields_iff rx ry).mpr ⟨even_x, even_y⟩) passed,
    advance_at_end last]

end Pair

/-! ### MLT and DVD -/

theorem exec_mlt (rx ry : Reg) (s : State) : exec (.mlt rx ry) s =
    pairOp Config.standard s rx ry (fun _ _ => none) multiply := rfl

/-- Settles O48: the pair is the product, and MLT checks nothing but the parity. -/
theorem mltWritesTheSignedProduct : Obligations.MltWritesTheSignedProduct := by
  intro rx ry s
  rw [exec_mlt]
  refine ⟨fun even_x even_y below => ?_, pairOp_of_odd_field⟩
  obtain ⟨t, completes, high, low, rest⟩ :=
    pairOp_onlyWritesPair (c := Config.standard) (result := multiply)
      (check := fun _ _ => none) even_x even_y rfl below
  exact ⟨t, completes, by rw [high, low, multiply_toInt], rest⟩

/-- Settles O49: the pair is quotient and remainder, unless one of the three faults comes first. -/
theorem dvdWritesQuotientAndRemainder : Obligations.DvdWritesQuotientAndRemainder := by
  intro rx ry s
  refine ⟨fun even_x even_y nonzero below => ?completes, fun odd => ?odd,
    fun even_x even_y zero => exec_dvd_of_zero even_x even_y zero,
    fun even_x even_y nonzero last => ?noSuccessor⟩
  case completes =>
    obtain ⟨t, completes, quotient, remainder, rest⟩ :=
      pairOp_onlyWritesPair (c := Config.standard) (result := divide)
        (check := fun _ d => if d = 0 then some .divideByZero else none) even_x even_y
        (if_neg nonzero) below
    rw [divide_eq] at quotient remainder
    refine ⟨t, completes, ?_, ?_, rest⟩
    · rw [quotient, remainder]
      exact fun fits => ⟨sdiv_mul_add_srem _ _ fits, srem_natAbs_lt _ nonzero, srem_sign _ _⟩
    · intro dividend divisor
      rw [quotient, remainder, dividend, divisor]
      decide
  case odd => exact exec_dvd rx ry s ▸ pairOp_of_odd_field odd
  case noSuccessor =>
    exact exec_dvd rx ry s ▸
      pairOp_at_end even_x even_y (if_neg nonzero) (congrArg BitVec.toNat last)

end Sys2Proof.Machine
end

section
/-! Logical, shift and rotate instructions bit by bit (45_logical.md, R166 to R168; 46_shift_rotate.md,
R175 to R177). -/

namespace Sys2Proof.Machine

/-! ### TRR -/

/-- The default TRR sets bit 3 on equality and clears it otherwise (R166). -/
theorem getLsbD_three_testEqual (cc : Nibble) (x y : Word) :
    (testEqual cc x y).getLsbD 3 = true ↔ x = y := by
  unfold testEqual
  split <;> simp [*]

/-- Bits 2..0 are outside both masks. -/
theorem getLsbD_testEqual_of_lt (cc : Nibble) (x y : Word) {k : Nat} (low : k < 3) :
    (testEqual cc x y).getLsbD k = cc.getLsbD k := by
  unfold testEqual
  split <;> interval_cases k <;> simp

theorem exec_trr (rx ry : Reg) (s : State) : exec (.trr rx ry) s =
    advance Config.standard s fun t =>
      t.setCc (testEqual s.cc (s.readGpr rx) (s.readGpr ry)) := rfl

/-- Settles O50: TRR writes CC and nothing else. -/
theorem trrRecordsEqualityInBitThree : Obligations.TrrRecordsEqualityInBitThree := by
  intro rx ry s below
  exact ⟨_, (exec_trr rx ry s).trans (advance_of_lt below), getLsbD_three_testEqual ..,
    fun _ low => getLsbD_testEqual_of_lt _ _ _ low, rfl, ⟨rfl, rfl⟩, fun _ _ => rfl,
    fun _ _ => rfl, fun _ => rfl, ⟨rfl, rfl, rfl, rfl, rfl⟩, ⟨rfl, rfl⟩⟩

/-! ### A general register written bit by bit -/

/-- The outcome `o` is that of an instruction which completes with bit `j` of `GPR[r]` at `bit j`
and changes nothing else but the PC. -/
def OnlyWritesBits (r : Reg) (bit : Nat → Bool) (s : State) (o : Outcome) : Prop :=
  ∃ t, o = .next t ∧ (∀ j, j < 16 → (t.readGpr r).getLsbD j = bit j) ∧
    t.pc = s.pc + 1 ∧ LatchesKept s t ∧ RegisterFrame [r] s t

theorem advance_onlyWritesBits {c : Config} {s : State} {v : Word} {bit : Nat → Bool} (r : Reg)
    (value : ∀ j, j < 16 → v.getLsbD j = bit j) (below : s.pc.toNat < 2047) :
    OnlyWritesBits r bit s (advance c s fun t => t.writeGpr r v) := by
  refine ⟨_, advance_of_lt below, fun j inWord => ?_, rfl, ⟨rfl, rfl⟩,
    (RegisterFrame.writeGpr s r v).setPc _⟩
  rw [State.readGpr_setPc, State.readGpr_writeGpr_same, value j inWord]

/-! ### AND and ORR -/

theorem exec_and (rx ry : Reg) (s : State) : exec (.and rx ry) s =
    advance Config.standard s fun t => t.writeGpr rx (s.readGpr rx &&& s.readGpr ry) := rfl

theorem exec_orr (rx ry : Reg) (s : State) : exec (.orr rx ry) s =
    advance Config.standard s fun t => t.writeGpr rx (s.readGpr rx ||| s.readGpr ry) := rfl

/-- Settles O51: the bits of the two word operations. -/
theorem andOrrCombineBitwise : Obligations.AndOrrCombineBitwise := by
  intro rx ry s below
  rw [exec_and, exec_orr]
  exact ⟨advance_onlyWritesBits rx (fun _ _ => BitVec.getLsbD_and) below,
    advance_onlyWritesBits rx (fun _ _ => BitVec.getLsbD_or) below⟩

/-! ### Shifts as operations on bit vectors -/

section Wrap
variable (x : Word) (k : Nat)

theorem wrap16_mul_two_pow : wrap16 ((x.toNat : Int) * 2 ^ k) = x <<< k := by
  have natural : (x.toNat : Int) * 2 ^ k = ((x.toNat * 2 ^ k : Nat) : Int) := by norm_cast
  apply BitVec.eq_of_toNat_eq
  rw [wrap16, natural, BitVec.ofInt_natCast, BitVec.toNat_ofNat, BitVec.toNat_shiftLeft,
    Nat.shiftLeft_eq]

theorem wrap16_div_two_pow : wrap16 ((x.toNat : Int) / 2 ^ k) = x >>> k := by
  have quotient_lt : x.toNat / 2 ^ k < 2 ^ 16 := (Nat.div_le_self ..).trans_lt x.isLt
  have natural : (x.toNat : Int) / 2 ^ k = ((x.toNat / 2 ^ k : Nat) : Int) := by norm_cast
  apply BitVec.eq_of_toNat_eq
  rw [wrap16, natural, BitVec.ofInt_natCast, BitVec.toNat_ofNat, Nat.mod_eq_of_lt quotient_lt,
    BitVec.toNat_ushiftRight, Nat.shiftRight_eq_div_pow]

/-- The division of the signed value rounds down, as the arithmetic shift does (R176). -/
theorem wrap16_signed16_div_two_pow : wrap16 (signed16 x / 2 ^ k) = x.sshiftRight k := by
  have shifted : (x.sshiftRight k).toInt = signed16 x / 2 ^ k := by
    rw [BitVec.toInt_sshiftRight, Int.shiftRight_eq_div_pow]
    rfl
  rw [← shifted, wrap16, BitVec.ofInt_toInt]

end Wrap

/-- A count of 0 needs no case of its own: no bit moves. -/
theorem shiftValue_eq (lr al : Bool) (count : Nibble) (x : Word) :
    shiftValue lr al count x =
      if lr then x <<< count.toNat
      else if al then x >>> count.toNat
      else x.sshiftRight count.toNat := by
  unfold shiftValue
  by_cases zero : count.toNat = 0
  · cases lr <;> cases al <;> simp [zero]
  · simp only [zero, if_false, wrap16_mul_two_pow, wrap16_div_two_pow,
      wrap16_signed16_div_two_pow]

/-- Every bit of a shifted word (R176). -/
theorem getLsbD_shiftValue (lr al : Bool) (count : Nibble) (x : Word) {j : Nat} (inWord : j < 16) :
    (shiftValue lr al count x).getLsbD j =
      if lr then decide (count.toNat ≤ j) && x.getLsbD (j - count.toNat)
      else if al then x.getLsbD (j + count.toNat)
      else x.getLsbD (min (j + count.toNat) 15) := by
  rw [shiftValue_eq]
  cases lr with
  | true =>
    have reached : (!decide (j < count.toNat)) = decide (count.toNat ≤ j) := by
      rw [← decide_not, decide_eq_decide, Nat.not_lt]
    simp only [if_true, BitVec.getLsbD_shiftLeft, inWord, decide_true, Bool.true_and, reached]
  | false =>
    cases al with
    | true => simp [Nat.add_comm]
    | false =>
      by_cases inside : count.toNat + j < 16
      · have position : min (j + count.toNat) 15 = count.toNat + j := by omega
        simp [BitVec.getLsbD_sshiftRight, inWord, inside, position, -BitVec.getLsbD_eq_getElem]
      · have position : min (j + count.toNat) 15 = 15 := by omega
        simp [BitVec.getLsbD_sshiftRight, inWord, inside, position, BitVec.msb_eq_getLsbD_last,
          -BitVec.getLsbD_eq_getElem]

theorem exec_src (r : Reg) (lr al : Bool) (count : Nibble) (s : State) :
    exec (.src r lr al count) s = advance Config.standard s fun t =>
      t.writeGpr r (shiftValue lr al count (s.readGpr r)) := rfl

/-- Settles O53: the bits of the shifted word. -/
theorem srcShiftsBits : Obligations.SrcShiftsBits := by
  intro r lr al count s below
  rw [exec_src]
  exact advance_onlyWritesBits r (fun _ inWord => getLsbD_shiftValue _ _ _ _ inWord) below

/-! ### Rotates -/

/-- A rotate is the two shifts that together cover the register; a count of 0 needs no case of its
own, since then the second shift is out of the word. -/
theorem rotateValue_eq (lr : Bool) (count : Nibble) (x : Word) :
    rotateValue lr count x =
      if lr then x <<< count.toNat ||| x >>> (16 - count.toNat)
      else x >>> count.toNat ||| x <<< (16 - count.toNat) := by
  unfold rotateValue
  by_cases zero : count.toNat = 0
  · have right_out : x >>> 16 = 0 := BitVec.ushiftRight_eq_zero (le_refl 16)
    have left_out : x <<< 16 = 0 := BitVec.shiftLeft_eq_zero (le_refl 16)
    cases lr <;> simp [zero, right_out, left_out]
  · simp only [zero, if_false, wrap16_mul_two_pow, wrap16_div_two_pow]

/-- Every bit of a rotated word (R177). -/
theorem getLsbD_rotateValue (lr : Bool) (count : Nibble) (x : Word) {j : Nat} (inWord : j < 16) :
    (rotateValue lr count x).getLsbD j =
      if lr then x.getLsbD ((j + 16 - count.toNat) % 16)
      else x.getLsbD ((j + count.toNat) % 16) := by
  have small := count.isLt
  rw [rotateValue_eq]
  cases lr with
  | true =>
    by_cases wraps : j < count.toNat
    · have position : (j + 16 - count.toNat) % 16 = 16 - count.toNat + j := by omega
      simp [inWord, wraps, position]
    · have position : (j + 16 - count.toNat) % 16 = j - count.toNat := by omega
      have out : x.getLsbD (16 - count.toNat + j) = false := BitVec.getLsbD_of_ge _ _ (by omega)
      simp [inWord, wraps, position, out, -BitVec.getLsbD_eq_getElem]
  | false =>
    by_cases wraps : j < 16 - count.toNat
    · have position : (j + count.toNat) % 16 = count.toNat + j := by omega
      simp [wraps, position]
    · have position : (j + count.toNat) % 16 = j - (16 - count.toNat) := by omega
      have out : x.getLsbD (count.toNat + j) = false := BitVec.getLsbD_of_ge _ _ (by omega)
      simp [inWord, wraps, position, out, -BitVec.getLsbD_eq_getElem]

theorem exec_rrc (r : Reg) (lr al : Bool) (count : Nibble) (s : State) :
    exec (.rrc r lr al count) s = advance Config.standard s fun t =>
      t.writeGpr r (rotateValue lr count (s.readGpr r)) := rfl

/-- Settles O54: the bits of the rotated word. -/
theorem rrcRotatesBits : Obligations.RrcRotatesBits := by
  intro r lr al count s below
  rw [exec_rrc]
  exact advance_onlyWritesBits r (fun _ inWord => getLsbD_rotateValue _ _ _ inWord) below

end Sys2Proof.Machine
end

section
/-! Ports (47_io.md, R186 to R188) and placeholders (48_float_vector_stubs.md, R195). -/

namespace Sys2Proof.Machine

/-! ### IN and CHK -/

/-- The outcome `o` is that of an instruction which asks the device `d` once, puts the answer `v` in
`GPR[r]`, and changes nothing else but the PC. -/
def OnlyAsksPort (q : PortQuery) (r : Reg) (d : Lit5) (v : Word) (s : State) (o : Outcome) : Prop :=
  ∃ t, o = .next t ∧ t.readGpr r = v ∧ t.portLog = .answered q d (t.readGpr r) :: s.portLog ∧
    t.pc = s.pc + 1 ∧ LatchesKept s t ∧ GprsKept [r] s t ∧ IxrsKept [] s t ∧ MemKept s t ∧
    t.cc = s.cc ∧ ControlKept s t ∧ t.trace = s.trace

theorem portAsk_onlyAsksPort (c : Config) (q : PortQuery) (r : Reg) (d : Lit5) {s : State}
    (below : s.pc.toNat < 2047) :
    OnlyAsksPort q r d (c.port q s.portLog d) s (portAsk c s q r d) := by
  have written := s.readGpr_writeGpr_same r (c.port q s.portLog d)
  obtain ⟨gprs, ixrs, mem, cc, control, -, trace⟩ :=
    RegisterFrame.writeGpr s r (c.port q s.portLog d)
  have logged := congrArg (PortEvent.answered q d · :: s.portLog) written.symm
  exact ⟨_, advance_of_lt below, written, logged, rfl, ⟨rfl, rfl⟩, gprs, ixrs, mem, cc, control,
    trace⟩

theorem portAsk_at_end (c : Config) (q : PortQuery) (r : Reg) (d : Lit5) {s : State}
    (last : s.pc = 2047) :
    portAsk c s q r d = .next (raise c (.addressOutOfRange 2048) s) :=
  advance_at_end (congrArg BitVec.toNat last)

/-- Settles O55: both instructions ask their port once, under every configuration. -/
theorem inAndChkTakeAnyAnswer : Obligations.InAndChkTakeAnyAnswer := by
  intro r d s
  refine ⟨fun below => ⟨?_, ?_, fun c => ?_⟩, fun last => ⟨?_, ?_⟩⟩
  · exact portAsk_onlyAsksPort Config.standard .read r d below
  · exact portAsk_onlyAsksPort Config.standard .status r d below
  · obtain ⟨t, reads, answer, log, -⟩ := portAsk_onlyAsksPort c .read r d below
    obtain ⟨u, asks, status, history, -⟩ := portAsk_onlyAsksPort c .status r d below
    exact ⟨t, u, reads, answer, answer ▸ log, asks, status, status ▸ history⟩
  · exact portAsk_at_end Config.standard .read r d last
  · exact portAsk_at_end Config.standard .status r d last

/-! ### OUT -/

theorem exec_out (r : Reg) (d : Lit5) (s : State) : exec (.out r d) s =
    advance Config.standard s fun t => t.logPort (.written d (s.readGpr r)) := rfl

/-- Settles O56: OUT logs one port operation and changes nothing else but the PC. -/
theorem outHandsOverTheRegister : Obligations.OutHandsOverTheRegister := by
  intro r d s
  rw [exec_out]
  refine ⟨fun below => ?_, fun last => advance_at_end (congrArg BitVec.toNat last)⟩
  exact ⟨_, advance_of_lt below, rfl, rfl, rfl, ⟨rfl, rfl⟩, fun _ _ => rfl, fun _ _ => rfl,
    fun _ => rfl, rfl, ⟨rfl, rfl, rfl, rfl, rfl⟩, rfl⟩

/-! ### The placeholders -/

/-- The seven placeholders have one rule, which commits nothing (R195). -/
theorem exec_placeholder {r : Reg} {ix : IxSel} {i : Bool} {addr : Lit5} {p : Instr}
    (placeholder : p ∈ [Instr.fadd r ix i addr, .fsub r ix i addr, .vadd r ix i addr,
      .vsub r ix i addr, .cnvrt r ix i addr, .ldfr r ix i addr, .stfr r ix i addr]) (s : State) :
    exec p s = advance Config.standard s fun t => t := by
  simp only [List.mem_cons, List.not_mem_nil, or_false] at placeholder
  rcases placeholder with rfl | rfl | rfl | rfl | rfl | rfl | rfl <;> rfl

/-- Settles O57: the increment alone, or the fault for the missing successor. -/
theorem placeholdersOnlyAdvance : Obligations.PlaceholdersOnlyAdvance := by
  intro r ix i addr s p placeholder
  rw [exec_placeholder placeholder]
  exact ⟨fun below => advance_of_lt below,
    fun last => advance_at_end (congrArg BitVec.toNat last)⟩

end Sys2Proof.Machine
end
